-- ==== Sys2Proof/Word.lean ====
section
/-! DEFINITION. The word types of the SJ16 and the index types of its bays and channels. -/

namespace Sys2Proof

/-- A bus word of 32 bits (R1). -/
abbrev Word := BitVec 32

/-- One byte of a word or of a link frame. -/
abbrev Byte := BitVec 8

/-- A bay, 0 to 15. -/
abbrev Bay := Fin 16

/-- A class of the class table, 0 to 31. -/
abbrev ClassIx := Fin 32

/-- A link channel, 0 to 3 (R130). -/
abbrev LinkIx := Fin 4

/-- A lamp channel, 0 or 1 (R130). -/
abbrev LampIx := Fin 2

/-- A lamp group in group order: HEAD_L 0 to MARKER 7 (R166). -/
abbrev Group := Fin 8

/-- A photo sensor of a sensing head, 0 to 7 (R171). -/
abbrev Sensor := Fin 8

end Sys2Proof
end

