-- ==== Sys2Proof/Syntax.lean ====
section
/-! DEFINITION. The commands of the SJ16: one constructor for each row of spec/opcode_table.json. -/

namespace Sys2Proof

/-- What a write transaction carries beside its address (R1): a data word, four byte enables and four parity bits, bit i for byte i. -/
structure BusWrite where
  data : Word
  enables : BitVec 4
  parity : BitVec 4
  deriving DecidableEq, Repr

/-- What a reset finds at the pins and at the Memory Port (R4, R28): the region-select straps, whether a single-word
Memory Port transaction is under way, and how many words of a burst under way have been written, its current word included. -/
structure AtReset where
  straps : BitVec 12
  underWay : Bool
  burstWords : Nat
  deriving DecidableEq, Repr

/-- A sensed input line (R68). -/
inductive Line
  | presence (b : Bay)
  | plug (b : Bay)
  | loop (b : Bay)
  | feedback (b : Bay)
  | hold
  deriving DecidableEq, Repr

/-- A byte as a link channel receives it (R139): its data and the level of its stop bit, true for mark. A stop bit at the space level is a
framing error. -/
structure LineByte where
  data : Byte
  stop : Bool := true
  deriving DecidableEq, Repr

/-- The two activities of the Channel Pool (R130). -/
inductive Activity
  | lamp
  | fault
  deriving DecidableEq, Repr

/-- The commands: the operations and events of spec/opcode_table.json, in the table's order. -/
inductive Instr
  | powerOn (r : AtReset)
  | resetLine (r : AtReset)
  | reloadReadComplete
  | memoryWrite (addr : BitVec 26) (w : BusWrite)
  | postedAreaWrite (addr : BitVec 26) (w : BusWrite)
  | processorRead (addr : BitVec 26) (burstWords : Nat)
  | throughReadComplete
  | fillReadComplete
  | queueDrainComplete
  | discardTimerExpiry (word : BitVec 24)
  | snapshotLimitExpiry (b : Bay)
  | postingSelect
  | postingGrant
  | postingBurstComplete
  | settingsCommit (w : BusWrite)
  | clockSetCommit (w : BusWrite)
  | clockTrim (w : BusWrite)
  | acknowledgeCommit (w : BusWrite)
  | classCommit (c : ClassIx) (w : BusWrite)
  | planCommit (b : Bay) (w : BusWrite)
  | lampCheck (b : Bay) (w : BusWrite)
  | faultRead (b : Bay) (w : BusWrite)
  | faultReadErase (b : Bay) (w : BusWrite)
  | cancelHeat (b : Bay) (w : BusWrite)
  | cancelChecks (b : Bay) (w : BusWrite)
  | releaseContactor (b : Bay) (w : BusWrite)
  | orderUnknownKind (b : Bay) (w : BusWrite)
  | progressWrite (w : BusWrite)
  | clearanceRequestWrite (b : Bay) (w : BusWrite)
  | clearanceClear (b : Bay) (w : BusWrite)
  | clearanceCancel (b : Bay) (w : BusWrite)
  | secondAdvance
  | lineLevelChange (line : Line) (level : Bool)
  | presenceOccupied (b : Bay)
  | presenceEmpty (b : Bay)
  | plugOut (b : Bay)
  | plugIn (b : Bay)
  | exitLoopOccupied (b : Bay)
  | exitLoopFree (b : Bay)
  | yardHoldActive
  | yardHoldInactive
  | feedbackClosed (b : Bay)
  | feedbackOpen (b : Bay)
  | closeLimitExpiry (b : Bay)
  | openLimitExpiry (b : Bay)
  | supplyTimeout (b : Bay)
  | holdTimerExpiry (b : Bay)
  | heatTimeReached (b : Bay)
  | channelWaitLimitExpiry (b : Bay) (act : Activity)
  | reservationTimerExpiry
  | requestSent (ch : LinkIx)
  | replyTimerExpiry (ch : LinkIx)
  | busyWaitExpiry (ch : LinkIx)
  | malformedFrame (ch : LinkIx) (input : List LineByte)
  | wakeReply (ch : LinkIx) (frame : List Byte)
  | wakePauseEnd (ch : LinkIx)
  | wakeTimerExpiry (ch : LinkIx)
  | identReply (ch : LinkIx) (frame : List Byte)
  | faultPageReply (ch : LinkIx) (frame : List Byte)
  | eraseStoredReply (ch : LinkIx) (frame : List Byte)
  | lampReply (ch : LinkIx) (frame : List Byte)
  | sleepReply (ch : LinkIx) (frame : List Byte)
  | sensorLevelChange (b : Bay) (sensor : Sensor) (lit : Bool)
  | sensorChangeTaken (lampCh : LampIx) (sensor : Sensor)
  | baselineExpiry (b : Bay)
  | onWindowExpiry (b : Bay)
  | offWindowExpiry (b : Bay)
  | preparationTimerExpiry (b : Bay)
  | lapseTimerExpiry (b : Bay)
  | reverseTimerExpiry (b : Bay)
  | heartbeatTimerExpiry
  | accumulatedWholeMinuteChange (b : Bay)
  deriving DecidableEq, Repr

end Sys2Proof
end

