-- ==== Sys2Proof/Decode.lean ====
section
/-! DEFINITION. The decoder over the rows of spec/opcode_table.json that give bits. No row gives any. -/

namespace Sys2Proof

/-- The command a word spells by the table's bits. The table gives no row any fixed bit or field, so no word spells a command (log 35). -/
def decodeTableWord (_nbits _w : Nat) : Option Instr := none

end Sys2Proof
end

