-- ==== Sys2Proof/Config.lean ====
section
/-! DEFINITION. The fixed figures of the SJ16. The spec leaves no result undefined, so there is no free value here. -/

namespace Sys2Proof.Config

/-- Units of the time base in one millisecond: the resolution is 0.1 ms (R56). -/
def unitsPerMs : Nat := 10

/-- One second of the time base. -/
def second : Nat := 10000

/-- One minute of the time base. -/
def minute : Nat := 600000

/-- The number of minute counts of the day circle (R61). -/
def minuteCounts : Nat := 94371840

/-- Half of the day circle (R61). -/
def halfCounts : Nat := 47185920

/-- Capacity of the Write Queue (R11). -/
def queueCapacity : Nat := 8

/-- Capacity of the Delayed Read Table (R14). -/
def delayedCapacity : Nat := 4

/-- Capacity of the Event Buffer (R203). -/
def bufferCapacity : Nat := 16

/-- Slots of the event ring (R204). -/
def ringSlots : Nat := 256

/-- Words read by the start-up reload (R29). -/
def reloadWords : Nat := 448

/-- Limit of a snapshot hold, 1 ms (R22). -/
def snapshotLimit : Nat := 10

/-- Settle time of a sensed line, 100 ms (R68). -/
def lineSettle : Nat := 1000

/-- Settle time of a photo sensor, 10 ms (R171). -/
def sensorSettle : Nat := 100

/-- Limit of a contactor movement, 3 s (R76). -/
def contactorLimit : Nat := 30000

/-- Supply wait of a LAMP entry, 10 min (R101). -/
def supplyWait : Nat := 6000000

/-- Wait of a channel entry, 15 min (R138). -/
def channelWait : Nat := 9000000

/-- Wait after which the reservation begins, 2 min (R137). -/
def reservationWait : Nat := 1200000

/-- Reply timer, 250 ms (R142). -/
def replyTime : Nat := 2500

/-- BUSY wait, 100 ms (R143). -/
def busyTime : Nat := 1000

/-- Baseline of a lamp check, 1 s (R172). -/
def baselineTime : Nat := 10000

/-- On-window and off-window, 2 s (R173, R174). -/
def windowTime : Nat := 20000

/-- Reverse timer, 60 s (R193). -/
def reverseTime : Nat := 600000

/-- The last arrival number, at which an arrival counter stays (R97, R132). -/
def lastArrival : Nat := 4294967295

/-- Rounds of the agenda in one command (log 16). -/
def agendaRounds : Nat := 256

end Sys2Proof.Config
end

