-- ==== Sys2Proof/Machine/State.lean ====
section
/-! DEFINITION. The state of the SJ16 as plain data, and its value after power-on. INVENTORY.md lists every field with its rule. -/

namespace Sys2Proof.Machine

/-- One value for each bay. -/
abbrev Bays (α : Type) := Vector α 16

/-- A duration timer (R56): stopped, or running and due at the given instant of the time base. -/
abbrev Timer := Option Nat

/-- A set of causes, bit n for cause code n (section 12.1). -/
abbrev Causes := BitVec 10

/-- A set of clearance reasons in the order of section 12.1. -/
abbrev Reasons := BitVec 15

/-- A set of lamp groups, or of sensors (section 12.1). -/
abbrev Set8 := BitVec 8

/-- A recorded time of day: day and second of day (R63). -/
structure TimeOfDay where
  day : Nat
  sec : Nat
  deriving DecidableEq, Repr

/-! ### Memory -/

/-- The supervisor memory behind the Memory Port: data bytes and their parity bits, each a list of (byte address, value)
with rising addresses and no entry of value 0, which is what an unlisted address reads as (log 5). -/
structure Memory where
  data : List Host.Cell := []
  parity : List Host.Cell := []
  deriving DecidableEq, Repr

/-! ### Captured records (chapter 2), decoded -/

/-- The committed settings (R38). Times are in the units of R38; the discard time is in steps of 0.5 ms. -/
structure Settings where
  target : Nat := 0
  band : Nat := 0
  horizon : Nat := 60
  checkLead : Nat := 45
  lampFresh : Nat := 120
  faultFresh : Nat := 120
  lapse : Nat := 10
  prep : Nat := 10
  quantum : Nat := 10
  heartbeat : Nat := 10
  fairness : Nat := 4
  discard : Nat := 4
  retry : Nat := 64
  mask : Causes := 0
  alarm : Causes := 0x124
  deriving DecidableEq, Repr

/-- A committed class row (R40). -/
structure ClassRow where
  code : Nat
  standing : Nat
  heat : Nat
  lamp : Nat
  heatMin : Vector Nat 4
  rate : Nat
  wake : Nat
  present : Set8
  critical : Set8
  flashing : Set8
  expected : Vector Set8 8
  deriving DecidableEq, Repr

/-- A committed plan row (R42). Roster and ready-by times are minute counts (R61). A disabled row has no other field in use (log 27). -/
structure PlanRow where
  enabled : Bool := false
  autoChecks : Bool := false
  classIx : ClassIx := 0
  coachId : Nat := 0
  run : Nat := 0
  roster : Option Nat := none
  readyBy : Option Nat := none
  deriving DecidableEq, Repr

/-- A committed clock-set record (R49). -/
structure ClockSetRow where
  day : Nat
  sec : Nat
  deriving DecidableEq, Repr

/-- A committed acknowledge record (R52). -/
structure AckRow where
  causes : Causes
  stamp : BitVec 32
  deriving DecidableEq, Repr

/-- The actions of a clearance request (R53). -/
inductive Action
  | clear
  | cancel
  deriving DecidableEq, Repr

/-- A clearance request (R53). -/
structure ClearRow where
  seq : Nat
  action : Action
  waiver : Bool
  run : Nat
  deriving DecidableEq, Repr

/-- Staging images and staging words of the Capture Unit (R32, R33). -/
structure Capture where
  settings : Vector Word 16 := Vector.replicate 16 0
  clockSet : Vector Word 3 := Vector.replicate 3 0
  trim : Word := 0
  progress : Word := 0
  ack : Vector Word 3 := Vector.replicate 3 0
  classes : Vector (Vector Word 8) 32 := Vector.replicate 32 (Vector.replicate 8 0)
  plans : Bays (Vector Word 8) := Vector.replicate 16 (Vector.replicate 8 0)
  orders : Bays Word := Vector.replicate 16 0
  deriving DecidableEq, Repr

/-! ### The memory path (chapter 1) -/

/-- An entry of the Write Queue (R11). -/
structure QEntry where
  word : BitVec 24
  data : Word
  enables : BitVec 4
  parity : BitVec 4
  deriving DecidableEq, Repr

/-- The state of a delayed read entry (R14): READY carries data, parity and the instant its discard timer runs out. -/
inductive DState
  | pending
  | ready (data : Word) (parity : BitVec 4) (discard : Nat)
  deriving DecidableEq, Repr

/-- An entry of the Delayed Read Table (R14). -/
structure DEntry where
  word : BitVec 24
  state : DState
  count : Nat
  deriving DecidableEq, Repr

/-- A single-word Memory Port transaction (R2): a through read, a fill read of a word (`freed`: its entry has been freed,
so its data is to be discarded), a queue drain, or a reload read. -/
inductive Txn
  | through
  | fill (word : BitVec 24) (freed : Bool)
  | drain
  | reload
  deriving DecidableEq, Repr

/-- The Processor Port (R1): idle, a read waiting for its memory read, or the last answer given. -/
inductive Port
  | idle
  | waiting (word : BitVec 24)
  | retry
  | done
  | doneRead (data : Word) (parity : BitVec 4)
  deriving DecidableEq, Repr

/-- The start-up reload while it runs (R29, R30): words read so far, good parity so far in the record under way, the first word of
the record under way, and whether the reload made the previous Memory Port transaction. -/
structure Reload where
  next : Nat := 0
  parityOk : Bool := true
  first : Word := 0
  madeLast : Bool := false
  deriving DecidableEq, Repr

/-- The Path Unit (R4 to R22, R28). -/
structure Path where
  base : BitVec 12 := 0
  queue : List QEntry := []
  delayed : List DEntry := []
  holds : Bays Timer := Vector.replicate 16 none
  held : Bays (Option Word) := Vector.replicate 16 none
  port : Port := .idle
  begun : Option Txn := none
  fair : Nat := 0
  reload : Option Reload := none
  deriving DecidableEq, Repr

/-- The two streams of the Posting Engine (section 1.7). -/
inductive Stream
  | row
  | event
  deriving DecidableEq, Repr

/-- What a posting writes (R24, R25): a row position, 0-15 the bay status rows and 16-31 the fault blocks, or the oldest buffered event. -/
inductive Target
  | row (p : Fin 32)
  | event
  deriving DecidableEq, Repr

/-- A burst under way (R26): its image and the words already written. -/
structure Burst where
  image : List Word
  written : Nat
  deriving DecidableEq, Repr

/-- A selected posting (R23): waiting for the port, or under burst. -/
structure Posting where
  target : Target
  burst : Option Burst
  deriving DecidableEq, Repr

/-- The Posting Engine (R24, R25, R28). -/
structure PostEngine where
  dirty : Vector Bool 32 := Vector.replicate 32 false
  sel : Option Posting := none
  lastRow : Fin 32 := 31
  lastStream : Stream := .row
  deriving DecidableEq, Repr

/-! ### Depot Clock (chapter 3) -/

/-- The Depot Clock (R55). `phaseFrom` is the instant of the time base at which the sub-second phase was last zero. -/
structure Clock where
  valid : Bool := false
  day : Nat := 0
  sec : Nat := 0
  phaseFrom : Nat := 0
  deriving DecidableEq, Repr

/-! ### Bay Record, lines and contactor (chapter 4) -/

/-- Assignment of a bay (R69). -/
inductive Assignment
  | unassigned
  | assigned
  | departed
  deriving DecidableEq, Repr

/-- The coach-seen fields (R89). -/
structure CoachSeen where
  id : Nat
  code : Nat
  deriving DecidableEq, Repr

/-- The fields of the Bay Record that are not held with another block (R66). `roster` is the departure roster time
in use for levels, taken over at a new assignment and at minute events (R45, R100; log 18). -/
structure BayRec where
  assignment : Assignment := .unassigned
  plan : Option PlanRow := none
  seen : Option CoachSeen := none
  autoLamp : Bool := false
  autoFault : Bool := false
  proceed : Bool := false
  roster : Option Nat := none
  deriving DecidableEq, Repr

/-- A sensed line (R68): the level at the pin, the taken value and the settle timer. True is OCCUPIED, IN, closed or ACTIVE. -/
structure LineState where
  level : Bool := false
  taken : Bool := false
  settle : Timer := none
  deriving DecidableEq, Repr

/-- The four sensed lines of a bay (R68). -/
structure BayLines where
  presence : LineState := {}
  plug : LineState := {}
  loop : LineState := {}
  feedback : LineState := {}
  deriving DecidableEq, Repr

/-- The contactor states (section 4.5). -/
inductive CtrState
  | open
  | closing
  | closed
  | opening
  | failedClose
  | welded
  deriving DecidableEq, Repr

/-- A bay's contactor, its limit timer, its claimant set and the heat pilot (R66, R76, R87). `startUp`: the OPENING under way was
entered at the start-up end steps (R90). -/
structure Contactor where
  state : CtrState := .open
  limit : Timer := none
  startUp : Bool := false
  heat : Bool := false
  lamp : Bool := false
  pilot : Bool := false
  deriving DecidableEq, Repr

/-- The two claimants of a contactor, which are also the two purposes of an Admission entry (R77, R97). -/
inductive Purpose
  | heat
  | lamp
  deriving DecidableEq, Repr

/-! ### Feeder Admission (chapter 5) -/

/-- A held HEAT component (R94, R103). -/
structure HeatClaim where
  amount : Nat
  urgent : Bool
  since : Nat
  hold : Timer
  eligible : Bool
  deriving DecidableEq, Repr

/-- The claim record of a bay (R94). -/
structure ClaimRec where
  standing : Option Nat := none
  heat : Option HeatClaim := none
  lamp : Option Nat := none
  deriving DecidableEq, Repr

/-- An entry of the Admission Waiting List (R97). -/
structure AEntry where
  bay : Bay
  purpose : Purpose
  urgent : Bool
  arrival : Nat
  wait : Timer
  deriving DecidableEq, Repr

/-! ### Cabin Pre-heat (chapter 6) -/

/-- Session states (R111). -/
inductive SState
  | none
  | booked
  | waiting
  | heating
  | paused
  | complete
  | ended
  | failed
  deriving DecidableEq, Repr

/-- Supply phases (R111). -/
inductive Phase
  | noEntry
  | listed
  | granted
  deriving DecidableEq, Repr

/-- Ending reasons of a session (R111). -/
inductive HeatEnd
  | cancelled
  | bookingRemoved
  | planChanged
  | departed
  | waived
  | noClose
  | welded
  deriving DecidableEq, Repr

/-- The session of a bay (R111). The required time is in minutes. The accumulated time is `saved` plus the time since `since`
while the session counts (`State.accumulated`); `shown` is its whole-minute figure in the status row (R119, log 24).
In NONE the required time is 0 (DESIGN CHOICE, log 37). -/
structure Session where
  state : SState := .none
  readyBy : Option Nat := none
  required : Nat := 0
  frozen : Bool := false
  start : Option Nat := none
  saved : Nat := 0
  since : Option Nat := none
  shown : Nat := 0
  phase : Phase := .noEntry
  arrival : Option Nat := none
  late : Bool := false
  lateReported : Bool := false
  pauseShed : Bool := false
  pausePlug : Bool := false
  ending : Option HeatEnd := none
  deriving DecidableEq, Repr

/-! ### Channel Pool and Link Engine (chapter 7) -/

/-- Stages of an activity (R131). -/
inductive Stage
  | none
  | supply
  | queued
  | running
  | closing
  deriving DecidableEq, Repr

/-- Variants of a fault read (R131). -/
inductive Variant
  | read
  | readErase
  deriving DecidableEq, Repr

/-- Origins of an activity (R131). -/
inductive Origin
  | order
  | auto
  | clearance
  deriving DecidableEq, Repr

/-- Stops of an activity (R131). -/
inductive Stop
  | none
  | orderly
  | immediate
  deriving DecidableEq, Repr

/-- Lamp and fault outcomes, an ABORTED outcome with its reason (section 12.1). -/
inductive EndCode
  | pass
  | passWithNotes
  | fail
  | complete
  | linkFailed
  | noSupply
  | noChannel
  | ambient
  | noWake
  | identity
  | plugOut
  | empty
  | cancelled
  | refused
  | badRecord
  deriving DecidableEq, Repr

/-- The pool's record of a lamp check or a fault read (R131). `previous`: it belongs to the bay's previous assignment, so its end
is not recorded (R163, R179). In NONE the variant is READ, rate and wake time are 0 (DESIGN CHOICE, log 37). -/
structure ActRec where
  stage : Stage := .none
  variant : Variant := .read
  origin : Option Origin := none
  rate : Nat := 0
  wake : Nat := 0
  linkUsed : Bool := false
  stop : Stop := .none
  ending : Option EndCode := none
  previous : Bool := false
  deriving DecidableEq, Repr

/-- Requests of the coach diagnostic link (R141). -/
inductive Request
  | wake
  | ident
  | faultPage (page : Nat)
  | eraseStored
  | lamp (g : Group) (on : Bool)
  | sleep
  deriving DecidableEq, Repr

/-- Where an attempt stands (R142, R143): its frame is being sent, its reply timer runs while the Link Engine hunts, with the bytes of the frame
it is in (none between frames), or the BUSY wait runs. -/
inductive AttemptState
  | sending
  | waiting (due : Nat) (got : List Byte)
  | busy (due : Nat)
  deriving DecidableEq, Repr

/-- An exchange under way (R142, R143). `single`: sent as one attempt. `began`: when its first attempt began. -/
structure Exchange where
  request : Request
  attempt : Nat
  state : AttemptState
  single : Bool
  began : Nat
  deriving DecidableEq, Repr

/-- A link channel (R130, R142, R144). `endedAt`: the instant at which its last exchange ended (R148, log 41). -/
structure LinkChannel where
  holder : Option (Bay × Activity) := none
  seq : Nat := 0
  rate : Nat := 0
  exch : Option Exchange := none
  wakeTimer : Timer := none
  pause : Timer := none
  endedAt : Timer := none
  deriving DecidableEq, Repr

/-- A lamp channel (R130, R166, R171). -/
structure LampChannel where
  holder : Option Bay := none
  litNow : Set8 := 0
  settle : Vector Timer 8 := Vector.replicate 8 none
  deriving DecidableEq, Repr

/-- An entry of the Channel Waiting List (R132). -/
structure CEntry where
  bay : Bay
  act : Activity
  variant : Variant
  urgent : Bool
  arrival : Nat
  origin : Origin
  since : Nat
  limit : Nat
  deriving DecidableEq, Repr

/-! ### Fault Reading (chapter 8) -/

/-- Severities (R151). -/
inductive Severity
  | info
  | advise
  | blocking
  deriving DecidableEq, Repr

/-- An occupied slot of a Fault Table (R151); `active` is the state ACTIVE. -/
structure Slot where
  code : Nat
  severity : Severity
  active : Bool
  count : Nat
  time : Option TimeOfDay
  seen : Bool
  deriving DecidableEq, Repr

/-- A Fault Table and its rotating slot pointer (R151). -/
structure FaultTable where
  slots : Vector (Option Slot) 8 := Vector.replicate 8 none
  pointer : Fin 8 := 0
  deriving DecidableEq, Repr

/-- The fault summary of a bay (R162). -/
structure FaultSummary where
  outcome : Option EndCode := none
  variant : Option Variant := none
  outcomeTime : Option TimeOfDay := none
  completeTime : Option TimeOfDay := none
  worst : Option Severity := none
  count : Nat := 0
  overflow : Bool := false
  eraseRefused : Bool := false
  total : Option Nat := none
  deriving DecidableEq, Repr

/-- Page number and drop mark of the fault read under way (R155). Before the first passed IDENT check after a reset they are 0 and clear (DESIGN CHOICE,
log 37). -/
structure ReadWork where
  page : Nat := 0
  drop : Bool := false
  deriving DecidableEq, Repr

/-! ### Lamp Checking (chapter 9) -/

/-- Steps of a running lamp check (R166). -/
inductive LampStep
  | power
  | link
  | baseline
  | groupOn
  | groupOff
  deriving DecidableEq, Repr

/-- The lamp layout a check works with (R166, R170). -/
structure Layout where
  present : Set8
  critical : Set8
  flashing : Set8
  expected : Vector Set8 8
  deriving DecidableEq, Repr

/-- Findings of one group (R175). -/
structure Finding where
  dark : Bool := false
  cross : Bool := false
  stuck : Bool := false
  deriving DecidableEq, Repr

/-- Which window the window timer runs for (R166). -/
inductive Window
  | baseline
  | on
  | off
  deriving DecidableEq, Repr

/-- The working state of a lamp check (R166). `judged` counts the groups whose off-window has expired (R179); `lost`: the check has
lost its supply and is on its way to its closing step (R177). -/
structure LampWork where
  step : Option LampStep := none
  supplyOn : Bool := false
  layout : Option Layout := none
  group : Option Group := none
  lit : Option Group := none
  window : Option (Window × Nat) := none
  seenLit : Set8 := 0
  findings : Vector (Option Finding) 8 := Vector.replicate 8 none
  judged : Nat := 0
  lost : Bool := false
  deriving DecidableEq, Repr

/-- Judged results (R167). -/
inductive Judged
  | pass
  | passWithNotes
  | fail
  deriving DecidableEq, Repr

/-- The lamp result of a bay (R167). In `findings` a group without an entry is "not present". -/
structure LampResult where
  outcome : Option EndCode := none
  origin : Option Origin := none
  outcomeTime : Option TimeOfDay := none
  judged : Option Judged := none
  judgeTime : Option TimeOfDay := none
  findings : Option (Vector (Option Finding) 8) := none
  deriving DecidableEq, Repr

/-! ### Departure Clearance (chapter 10) -/

/-- Clearance states (R182). -/
inductive ClrState
  | none
  | preparing
  | cleared
  | suspended
  | departing
  deriving DecidableEq, Repr

/-- Clearance outcomes (R182). -/
inductive ClrOutcome
  | withheld
  | lapsed
  | revoked
  | cancelled
  | departed
  deriving DecidableEq, Repr

/-- The request under clearance (R182), with its sequence for the events of R183 (log 19). -/
structure ClrRequest where
  waiver : Bool
  run : Nat
  seq : Nat
  deriving DecidableEq, Repr

/-- The lapse timer (R182): stopped, running until an instant, or paused with a duration left. -/
inductive LapseTimer
  | stopped
  | running (due : Nat)
  | paused (left : Nat)
  deriving DecidableEq, Repr

/-- The clearance record of a bay (R182). -/
structure Clearance where
  state : ClrState := .none
  request : Option ClrRequest := none
  lastSeq : Option Nat := none
  failing : Reasons := 0
  lampPlaced : Bool := false
  faultPlaced : Bool := false
  clearedTime : Option TimeOfDay := none
  outcome : Option ClrOutcome := none
  reasons : Reasons := 0
  outcomeTime : Option TimeOfDay := none
  prep : Timer := none
  lapse : LapseTimer := .stopped
  reverse : Timer := none
  deriving DecidableEq, Repr

/-! ### Events, attention and supervision (chapter 11) -/

/-- The event kinds of R202, in the order of its table. -/
inductive Kind
  | cleared | withheld | lapsed | revoked | cancelled | suspended
  | departed
  | unauthorisedDeparture | plugPulled
  | heatStarted | heatComplete | heatLate | heatEnded
  | lampResult | faultResult
  | contactorNoClose | contactorWeld | contactorReleased | feedbackUnexpected
  | claimShed | supplyTimeout | budgetReached
  | parityDropped | writeRefused | readDiscarded | readStarved | rowRejected | orderRefused | indexInvalid
  | clockSet | clockTrimmed
  | supervisorSilent | supervisorBack
  | holdOn | holdOff
  deriving DecidableEq, Repr

/-- An event record (R201), with the sequence byte of its layout (section 12.4). -/
structure EventRec where
  stamp : BitVec 32
  kind : Kind
  bay : Option Bay
  detail : BitVec 16
  time : Option TimeOfDay
  seq : Byte
  deriving DecidableEq, Repr

/-- The Event Unit (R201, R203, R204, R206). -/
structure EventUnit where
  stamp : BitVec 32 := 0
  buffer : List EventRec := []
  missed : BitVec 32 := 0
  producer : BitVec 16 := 0
  consumer : BitVec 16 := 0
  epoch : BitVec 16 := 0
  deriving DecidableEq, Repr

/-- The latches and newest stamps of the Attention Unit (R207). -/
structure Attention where
  latches : Causes := 0
  newest : Vector (Option (BitVec 32)) 10 := Vector.replicate 10 none
  deriving DecidableEq, Repr

/-- Supervisor states (R211). -/
inductive Supervisor
  | awaiting
  | live
  | silent
  deriving DecidableEq, Repr

/-- The Heartbeat Monitor (R211): state, timer, the period with which the timer runs, and when SILENT began. -/
structure Heartbeat where
  state : Supervisor := .awaiting
  timer : Timer := none
  period : Nat := 10
  silentSince : Nat := 0
  deriving DecidableEq, Repr

/-- What the blocks still have to do inside the present command (log 15): examine the Admission list (R102), test preemption (R104, R106) or
shedding (R107) without an examination, examine the channel list (R135), and for each bay vet a PREPARING clearance again (R188). The MODEL's
own field; empty after every command (log 16). -/
structure Agenda where
  admission : Bool := false
  preempt : Bool := false
  shed : Bool := false
  pool : Bool := false
  vet : Bays Bool := Vector.replicate 16 false
  deriving DecidableEq, Repr

/-! ### The whole state -/

/-- The state of the SJ16, of the memory behind it and of the pins it senses. -/
structure State where
  pending : List Instr := []
  timeBase : Nat := 0
  clock : Clock := {}
  mem : Memory := {}
  path : Path := {}
  post : PostEngine := {}
  cap : Capture := {}
  settings : Settings := {}
  clockSetCopy : Option ClockSetRow := none
  ackCopy : Option AckRow := none
  classes : Vector (Option ClassRow) 32 := Vector.replicate 32 none
  plans : Bays (Option PlanRow) := Vector.replicate 16 none
  clearanceCopies : Bays (Option ClearRow) := Vector.replicate 16 none
  orderSeqs : Bays (Option Nat) := Vector.replicate 16 none
  bays : Bays BayRec := Vector.replicate 16 {}
  lines : Bays BayLines := Vector.replicate 16 {}
  hold : LineState := {}
  ctrs : Bays Contactor := Vector.replicate 16 {}
  claims : Bays ClaimRec := Vector.replicate 16 {}
  admList : List AEntry := []
  admCounter : Nat := 1
  effective : Nat := 0
  horizon : Nat := 60
  sessions : Bays Session := Vector.replicate 16 {}
  lampActs : Bays ActRec := Vector.replicate 16 {}
  faultActs : Bays ActRec := Vector.replicate 16 {}
  links : Vector LinkChannel 4 := Vector.replicate 4 {}
  lampChs : Vector LampChannel 2 := Vector.replicate 2 {}
  poolList : List CEntry := []
  poolCounter : Nat := 1
  reservation : Option Bay := none
  resTimer : Option (Bay × Nat) := none
  tables : Bays FaultTable := Vector.replicate 16 {}
  summaries : Bays FaultSummary := Vector.replicate 16 {}
  reads : Bays ReadWork := Vector.replicate 16 {}
  lampWork : Bays LampWork := Vector.replicate 16 {}
  lampRes : Bays LampResult := Vector.replicate 16 {}
  heads : Bays Set8 := Vector.replicate 16 0
  clr : Bays Clearance := Vector.replicate 16 {}
  ev : EventUnit := {}
  att : Attention := {}
  hb : Heartbeat := {}
  agenda : Agenda := {}
  deriving DecidableEq, Repr

/-- The stops of a step. The spec names no occurrence that stops the SJ16: every error is an event with an effect (R8, R10, R35,
R205 and so on), so there is no constructor and no command faults. -/
inductive Fault
  deriving DecidableEq, Repr

/-- The refusals of a step. -/
inductive Refusal
  /-- Raised by an arm of `exec` whose command has no meaning yet. Safe: nothing can be proved to happen. No arm raises it now. -/
  | notModelled (mnemonic : String)
  deriving DecidableEq, Repr

/-- The part right after power-on: every block at its power-on value, the end steps of R31 run with all lines idle, so all 32 row
positions are marked dirty. Straps and pins: log 11. -/
def State.reset : State := { post := { dirty := Vector.replicate 32 true } }

end Sys2Proof.Machine
end

