-- ==== Sys2Proof/Machine/Operands.lean ====
section
/-! DEFINITION. Every operand form: fields of words, byte merges, the Depot Region map (R4), the row check and the decoding of
captured records (R34, R213, section 12.2), and the frames of the coach diagnostic link (R140, R141, section 12.6). -/

namespace Sys2Proof.Machine

/-! ### Indexed access -/

/-- Read one place of a vector. -/
def vget {α : Type} {n : Nat} (v : Vector α n) (i : Fin n) : α := v[i.val]'i.isLt

/-- Replace one place of a vector. -/
def vset {α : Type} {n : Nat} (v : Vector α n) (i : Fin n) (x : α) : Vector α n := v.set i.val x i.isLt

/-! ### Fields of words -/

/-- The `len` bits of `w` from bit `lo` up. -/
def bits (w : Word) (lo len : Nat) : Nat := (w.toNat >>> lo) % 2 ^ len

/-- One bit of a word. -/
def bitAt (w : Word) (i : Nat) : Bool := w.toNat.testBit i

/-- No bit of `w` outside the named bits `mask` is set (R213). -/
def onlyBits (w : Word) (mask : Nat) : Bool := w.toNat &&& mask == w.toNat

/-- Byte `i` of a word, byte 0 in bits 7:0. -/
def byteOf (w : Word) (i : Nat) : Byte := BitVec.ofNat 8 (w.toNat >>> (8 * i))

/-- A word from its four bytes. -/
def wordOfBytes (b0 b1 b2 b3 : Byte) : Word := b3 ++ b2 ++ b1 ++ b0

/-- Each enabled byte of `new` over the same byte of `old` (R11, R20, R33). -/
def mergeWord (old new : Word) (en : BitVec 4) : Word :=
  let pick := fun i => if en.getLsbD i then byteOf new i else byteOf old i
  wordOfBytes (pick 0) (pick 1) (pick 2) (pick 3)

/-- A flag as a bit at place `i` of a packed word. -/
def flagAt (c : Bool) (i : Nat) : Nat := if c then 2 ^ i else 0

/-! ### The Depot Region (R4) -/

/-- The word address of a byte address: its two low bits are ignored (R1). -/
def wordAddr (a : BitVec 26) : BitVec 24 := a.extractLsb' 2 24

/-- The byte address of the word at an offset of the region based at strap value `base` (R4). -/
def regionAddr (base : BitVec 12) (offset : Nat) : BitVec 26 := BitVec.ofNat 26 (base.toNat * 16384 + offset)

/-- A word lies in the region when the upper twelve address bits equal the base (R4). -/
def inRegion (base : BitVec 12) (w : BitVec 24) : Bool := w.extractLsb' 12 12 == base

/-- The byte offset in the region of a region word (R4). -/
def offsetOf (w : BitVec 24) : Nat := (w.extractLsb' 0 12).toNat * 4

/-- The low 16 bits of a word's byte address, as events show it (R8, R10, R17; log 13). -/
def eventAddr (w : BitVec 24) : Nat := w.toNat * 4 % 65536

/-- The areas of the region, with the row and the word in the row (R4). -/
inductive Area
  | settings (w : Fin 16)
  | clockSet (w : Fin 3)
  | trim
  | progress
  | ack (w : Fin 3)
  | clockRow (w : Nat)
  | ringHeader (w : Nat)
  | classRow (c : ClassIx) (w : Fin 8)
  | planRow (b : Bay) (w : Fin 8)
  | order (b : Bay)
  | request (b : Bay)
  | check (b : Bay)
  | statusRow (b : Bay) (w : Nat)
  | faultBlock (b : Bay) (w : Nat)
  | ring
  | pass
  deriving DecidableEq, Repr

/-- The area map of R4. -/
def areaOf (o : Nat) : Area :=
  let w := o / 4
  if o < 0x40 then .settings (Fin.ofNat 16 w)
  else if o < 0x4C then .clockSet (Fin.ofNat 3 (w - 16))
  else if o < 0x50 then .trim
  else if o < 0x54 then .progress
  else if o < 0x60 then .ack (Fin.ofNat 3 (w - 21))
  else if o < 0x80 then .pass
  else if o < 0x90 then .clockRow (w - 32)
  else if o < 0xB0 then .ringHeader (w - 36)
  else if o < 0x200 then .pass
  else if o < 0x600 then .classRow (Fin.ofNat 32 ((o - 0x200) / 32)) (Fin.ofNat 8 w)
  else if o < 0x800 then .planRow (Fin.ofNat 16 ((o - 0x600) / 32)) (Fin.ofNat 8 w)
  else if o < 0x840 then .order (Fin.ofNat 16 w)
  else if o < 0x880 then .pass
  else if o < 0x900 then
    (if w % 2 = 0 then .request (Fin.ofNat 16 ((o - 0x880) / 8)) else .check (Fin.ofNat 16 ((o - 0x880) / 8)))
  else if o < 0x1000 then .pass
  else if o < 0x1400 then .statusRow (Fin.ofNat 16 ((o - 0x1000) / 64)) (w % 16)
  else if o < 0x1800 then .faultBlock (Fin.ofNat 16 ((o - 0x1400) / 64)) (w % 16)
  else if o < 0x2000 then .pass
  else if o < 0x3000 then .ring
  else .pass

/-- The bay whose plan row, order word, clearance row, status row or fault block holds the word (R10). -/
def Area.bay : Area → Option Bay
  | .planRow b _ | .order b | .request b | .check b | .statusRow b _ | .faultBlock b _ => some b
  | .settings _ | .clockSet _ | .trim | .progress | .ack _ | .clockRow _ | .ringHeader _ | .classRow _ _ | .ring | .pass => none

/-- The offset of the k-th word the reload reads (R29). -/
def reloadOffset (k : Nat) : Nat :=
  if k < 16 then 4 * k
  else if k < 272 then 0x200 + 4 * (k - 16)
  else if k < 400 then 0x600 + 4 * (k - 272)
  else if k < 416 then 0x800 + 4 * (k - 400)
  else 0x880 + 4 * (k - 416)

/-! ### The row check (R34) -/

/-- The sum of the 16-bit halves of a record, modulo 65536 (R34). -/
def halvesSum (ws : List Word) : Nat :=
  (ws.foldl (fun a w => a + w.toNat % 65536 + w.toNat / 65536) 0) % 65536

/-- The tag and the sum tests of the row check, on all the words of a record, its check word last (R34). -/
def tagAndSum (tag : Nat) (ws : List Word) : Bool :=
  (ws.getLastD 0).toNat / 65536 == tag && halvesSum ws == 0

/-- Tags of R34. -/
def tagSettings : Nat := 0x6A01
def tagClockSet : Nat := 0x6A02
def tagAck : Nat := 0x6A03
def tagClass : Nat := 0x6A10
def tagPlan : Nat := 0x6A20
def tagClearance : Nat := 0x6A30

/-- `n` lies in the range from `lo` to `hi`, both included. -/
def within (n lo hi : Nat) : Bool := decide (lo ≤ n) && decide (n ≤ hi)

/-- The settings record, if it passes the row check (R34, R38, R213, R214). -/
def decodeSettings (v : Vector Word 16) : Option Settings :=
  let w := fun (i : Fin 16) => vget v i
  let r : Settings :=
    { target := bits (w 0) 0 12, band := bits (w 0) 16 2,
      horizon := bits (w 1) 0 8, checkLead := bits (w 1) 8 8, lampFresh := bits (w 1) 16 8, faultFresh := bits (w 1) 24 8,
      lapse := bits (w 2) 0 5, prep := bits (w 2) 8 5, quantum := bits (w 2) 16 6, heartbeat := bits (w 2) 24 6,
      fairness := bits (w 3) 0 5, discard := bits (w 3) 8 5, retry := bits (w 3) 16 8,
      mask := BitVec.ofNat 10 (bits (w 4) 0 10), alarm := BitVec.ofNat 10 (bits (w 4) 16 10) }
  let named := onlyBits (w 0) 0x00030FFF && onlyBits (w 2) 0x3F3F1F1F && onlyBits (w 3) 0x00FF1F1F && onlyBits (w 4) 0x03FF03FF
  let reserved := ((v.toList.drop 5).take 10).all (· == 0)
  let ranges := within r.horizon 0 240 && within r.checkLead 0 240 && within r.lampFresh 1 255 && within r.faultFresh 1 255 &&
    within r.lapse 1 30 && within r.prep 1 30 && within r.quantum 0 60 && within r.heartbeat 2 60 && within r.fairness 1 16 &&
    within r.discard 1 16 && within r.retry 16 255
  if tagAndSum tagSettings v.toList && named && reserved && ranges then some r else none

/-- The clock-set record, if it passes the row check (R49). -/
def decodeClockSet (v : Vector Word 3) : Option ClockSetRow :=
  let day := vget v 0
  let sec := vget v 1
  if tagAndSum tagClockSet v.toList && onlyBits day 0xFFFF && onlyBits sec 0x1FFFF && within sec.toNat 0 86399
  then some { day := day.toNat, sec := sec.toNat } else none

/-- The acknowledge record, if it passes the row check (R52). -/
def decodeAck (v : Vector Word 3) : Option AckRow :=
  let c := vget v 0
  if tagAndSum tagAck v.toList && onlyBits c 0x3FF then some { causes := BitVec.ofNat 10 c.toNat, stamp := vget v 1 } else none

/-- Every set bit of `a` is set in `b`. -/
def subset8 (a b : Set8) : Bool := a &&& b == a

/-- A class row, if it passes the row check (R40, R213). -/
def decodeClass (v : Vector Word 8) : Option ClassRow :=
  let w := fun (i : Fin 8) => vget v i
  let r : ClassRow :=
    { code := bits (w 0) 0 8, standing := bits (w 0) 8 8, heat := bits (w 0) 16 8, lamp := bits (w 0) 24 8,
      heatMin := Vector.ofFn fun i => bits (w 1) (8 * i.val) 8,
      rate := bits (w 2) 0 3, wake := bits (w 2) 8 6,
      present := byteOf (w 2) 2, critical := byteOf (w 2) 3, flashing := byteOf (w 3) 0,
      expected := Vector.ofFn fun g => if g.val < 4 then byteOf (w 4) g.val else byteOf (w 5) (g.val - 4) }
  let named := onlyBits (w 2) 0xFFFF3F07 && onlyBits (w 3) 0xFF && w 6 == 0
  let groups := (List.finRange 8).all fun g => !r.present.getLsbD g.val || vget r.expected g != 0
  if tagAndSum tagClass v.toList && named && within r.rate 0 5 && within r.wake 1 60 && subset8 r.critical r.present &&
    subset8 r.flashing r.present && groups then some r else none

/-- A day-minute time (section 12.1) as an optional minute count; none where the word is no such time (R213, R214). -/
def decodeDayMinute (w : Word) : Option (Option Nat) :=
  if bitAt w 31 then
    (if onlyBits w 0x87FFFFFF && within (bits w 16 11) 0 1439 then some (some (bits w 0 16 * 1440 + bits w 16 11)) else none)
  else if w == 0 then some none else none

/-- A plan row, if it passes the row check against the committed classes (R42, R213). -/
def decodePlan (classes : Vector (Option ClassRow) 32) (v : Vector Word 8) : Option PlanRow :=
  let w := fun (i : Fin 8) => vget v i
  if !tagAndSum tagPlan v.toList then none
  else if !bitAt (w 0) 0 then some {}
  else
    let c : ClassIx := Fin.ofNat 32 (bits (w 0) 8 5)
    match decodeDayMinute (w 2), decodeDayMinute (w 3) with
    | some roster, some ready =>
      if onlyBits (w 0) 0x1F03 && within (bits (w 1) 0 20) 1 999999 && w 4 == 0 && w 5 == 0 && w 6 == 0 && (vget classes c).isSome
      then some { enabled := true, autoChecks := bitAt (w 0) 1, classIx := c, coachId := bits (w 1) 0 20, run := bits (w 1) 20 12,
                  roster := roster, readyBy := ready }
      else none
    | _, _ => none

/-- A clearance row, if its request word and check word pass the row check (R53, R213). -/
def decodeClearance (req chk : Word) : Option ClearRow :=
  let mk := fun a => ClearRow.mk (bits req 0 8) a (bitAt req 10) (bits req 16 12)
  if tagAndSum tagClearance [req, chk] && onlyBits req 0x0FFF07FF then
    match bits req 8 2 with
    | 1 => some (mk .clear)
    | 2 => some (mk .cancel)
    | _ => none
  else none

/-- The sequence of an order word (R213). -/
def orderSeq (w : Word) : Nat := bits w 0 8

/-- The kinds of an order word (R47, section 12.2). -/
inductive OrderKind
  | lampCheck
  | faultRead
  | faultReadErase
  | cancelHeat
  | cancelChecks
  | releaseContactor
  | unknown
  deriving DecidableEq, Repr

/-- The kind of an order word (R213). -/
def orderKind (w : Word) : OrderKind :=
  match bits w 8 8 with
  | 1 => .lampCheck
  | 2 => .faultRead
  | 3 => .faultReadErase
  | 4 => .cancelHeat
  | 5 => .cancelChecks
  | 6 => .releaseContactor
  | _ => .unknown

/-! ### Frames of the coach diagnostic link (R140, R141) -/

/-- One bit step of the CRC: generator x^16 + x^12 + x^5 + 1 (R140). -/
def crcBit (c : Nat) : Nat :=
  if c ≥ 0x8000 then ((c * 2) % 65536) ^^^ 0x1021 else c * 2

/-- One byte of the CRC, most significant bit first (R140). -/
def crcByte (c : Nat) (b : Byte) : Nat :=
  crcBit (crcBit (crcBit (crcBit (crcBit (crcBit (crcBit (crcBit (c ^^^ (b.toNat * 256)))))))))

/-- The CRC of a byte list, from 0xFFFF, without final inversion (R140). -/
def crc16 (bs : List Byte) : Nat := bs.foldl crcByte 0xFFFF

/-- A frame: lead byte, kind, sequence, length, payload, CRC high byte first (R140). -/
def frameOf (kind seq : Nat) (payload : List Byte) : List Byte :=
  let body := BitVec.ofNat 8 kind :: BitVec.ofNat 8 seq :: BitVec.ofNat 8 payload.length :: payload
  let c := crc16 body
  0xC3#8 :: body ++ [BitVec.ofNat 8 (c / 256), BitVec.ofNat 8 c]

/-- Kind codes of R141. -/
def Request.kind : Request → Nat
  | .wake => 0x11
  | .ident => 0x12
  | .faultPage _ => 0x13
  | .eraseStored => 0x14
  | .lamp _ _ => 0x15
  | .sleep => 0x16

/-- Request payloads (R141, section 12.6). -/
def Request.payload : Request → List Byte
  | .faultPage p => [BitVec.ofNat 8 p]
  | .lamp g on => [BitVec.ofNat 8 g.val, if on then 1#8 else 0#8]
  | .wake | .ident | .eraseStored | .sleep => []

/-- The frame of a request attempt (R140, R142). -/
def requestFrame (r : Request) (seq : Nat) : List Byte := frameOf r.kind seq r.payload

/-- A fault record as a reply carries it (section 12.6), not yet judged (R157). -/
structure RawRecord where
  code : Nat
  severity : Nat
  state : Nat
  count : Nat
  deriving DecidableEq, Repr

/-- What a well-formed reply says (R141). -/
inductive Reply
  | ok
  | okIdent (id code total : Nat)
  | okPage (more : Bool) (records : List RawRecord)
  | busy
  | refused
  | starting
  deriving DecidableEq, Repr

/-- Fault records of five bytes each (section 12.6). -/
def parseRecords : List Byte → List RawRecord
  | c1 :: c0 :: sev :: st :: n :: rest =>
    { code := c1.toNat * 256 + c0.toNat, severity := sev.toNat, state := st.toNat, count := n.toNat } :: parseRecords rest
  | _ => []

/-- The payload of an OK reply to a request, after its status byte, if its fields lie in their values (R141, R214). -/
def parseOk (r : Request) (p : List Byte) : Option Reply :=
  match r, p with
  | .ident, [i2, i1, i0, code, total] =>
    let id := i2.toNat * 65536 + i1.toNat * 256 + i0.toNat
    if within id 1 999999 && within total.toNat 0 64 then some (.okIdent id code.toNat total.toNat) else none
  | .ident, _ => none
  | .faultPage _, more :: n :: recs =>
    if within more.toNat 0 1 && within n.toNat 0 4 && recs.length == 5 * n.toNat
    then some (.okPage (more == 1#8) (parseRecords recs)) else none
  | .faultPage _, _ => none
  | .wake, [] | .eraseStored, [] | .lamp _ _, [] | .sleep, [] => some .ok
  | .wake, _ | .eraseStored, _ | .lamp _ _, _ | .sleep, _ => none

/-- The reply a frame's payload says, if its status and its length are proper for the request (R141). -/
def parsePayload (r : Request) : List Byte → Option Reply
  | [] => none
  | status :: rest =>
    match status.toNat with
    | 0 => parseOk r rest
    | 1 => if rest.isEmpty then some .busy else none
    | 2 => if rest.isEmpty then some .refused else none
    | 3 => if rest.isEmpty && r == .wake then some .starting else none
    | _ => none

/-- The reply a whole frame carries to a request with a sequence, if the frame is well-formed (R141). -/
def parseReply (r : Request) (seq : Nat) (frame : List Byte) : Option Reply :=
  match frame with
  | lead :: kind :: sq :: len :: rest =>
    let n := len.toNat
    let payload := rest.take n
    let crc := rest.drop n
    let want := crc16 (kind :: sq :: len :: payload)
    if lead == 0xC3#8 && decide (n ≤ 24) && payload.length == n && crc == [BitVec.ofNat 8 (want / 256), BitVec.ofNat 8 want] &&
       kind.toNat == r.kind + 0x80 && sq.toNat == seq
    then parsePayload r payload else none
  | _ => none

/-! ### The line and the hunt (R139, R142) -/

/-- The ten bit levels of a byte on a link line, true for mark: a start bit, eight data bits least significant first, a stop bit (R139). -/
def LineByte.levels (x : LineByte) : List Bool := false :: ((List.finRange 8).map fun i => x.data.getLsbD i.val) ++ [x.stop]

/-- The bits per second of a link rate code; codes 6 and 7 never reach a channel (R139). -/
def bitRate (code : Nat) : Nat :=
  match code with
  | 0 => 4800
  | 1 => 9600
  | 2 => 19200
  | 3 => 38400
  | 4 => 57600
  | 5 => 115200
  | _ => 0

/-- Bytes as a sender without framing errors puts them on the line (R139). -/
def onLine (bytes : List Byte) : List LineByte := bytes.map fun b => ⟨b, true⟩

/-- The frame under way after one more byte (R142 steps 1 and 2): a lead byte begins one; a framing error, or a length above 24, abandons it. -/
def huntByte (got : List Byte) (x : LineByte) : List Byte :=
  if !x.stop then []
  else match got with
    | [] => if x.data == 0xC3#8 then [x.data] else []
    | [_, _, _] => if x.data.toNat ≤ 24 then got ++ [x.data] else []
    | _ => got ++ [x.data]

/-- The last CRC byte of the frame has come (R140, R142 step 3). -/
def frameComplete : List Byte → Bool
  | _ :: _ :: _ :: len :: rest => rest.length == len.toNat + 2
  | _ => false

/-- What a hunt over some bytes comes to: a reply, or the bytes of the frame it is in. -/
inductive Heard
  | reply (r : Reply)
  | listening (got : List Byte)
  deriving DecidableEq, Repr

/-- Hunt for the reply to a request (R142): a complete frame that is well-formed is the reply, and what follows it is ignored; any other is
discarded, and hunting resumes with the next byte. -/
def hunt (r : Request) (seq : Nat) (got : List Byte) : List LineByte → Heard
  | [] => .listening got
  | x :: rest =>
    if frameComplete (huntByte got x) then
      match parseReply r seq (huntByte got x) with
      | some y => .reply y
      | none => hunt r seq [] rest
    else hunt r seq (huntByte got x) rest

/-- The reply frame a coach sends with a payload to a request (R140, R141). -/
def replyFrame (r : Request) (seq : Nat) (payload : List Byte) : List Byte := frameOf (r.kind + 0x80) seq payload

end Sys2Proof.Machine
end

