-- ==== Sys2Proof/Machine/Flags.lean ====
section
/-! DEFINITION. Every flag computation: byte parity (R3), causes and kind codes (R202, section 12.4), serial comparison of stamps,
latches, level conditions and the attention and alarm lines (R207 to R209), the contactor drive (section 4.5). -/

namespace Sys2Proof.Machine

/-! ### Parity (R3) -/

/-- The even parity bit of a byte: with it the ones are even in number (R3). -/
def parityBit (b : Byte) : Bool :=
  let n := b.toNat
  let n := n ^^^ (n >>> 4)
  let n := n ^^^ (n >>> 2)
  let n := n ^^^ (n >>> 1)
  n % 2 == 1

/-- The four parity bits of a word as the SJ16 generates them (R3). -/
def parityOf (w : Word) : BitVec 4 :=
  BitVec.ofNat 4 (flagAt (parityBit (byteOf w 0)) 0 + flagAt (parityBit (byteOf w 1)) 1 +
    flagAt (parityBit (byteOf w 2)) 2 + flagAt (parityBit (byteOf w 3)) 3)

/-- An enabled byte disagrees with its parity bit; a byte not enabled is not checked (R10). -/
def parityError (w : BusWrite) : Bool := (parityOf w.data ^^^ w.parity) &&& w.enables != 0

/-! ### Events and causes -/

/-- The cause code of a kind (R202, section 12.1). -/
def Kind.cause : Kind → Fin 10
  | .cleared | .withheld | .lapsed | .revoked | .cancelled | .suspended => 0
  | .departed => 1
  | .unauthorisedDeparture | .plugPulled => 2
  | .heatStarted | .heatComplete | .heatLate | .heatEnded => 3
  | .lampResult | .faultResult => 4
  | .contactorNoClose | .contactorWeld | .contactorReleased | .feedbackUnexpected => 5
  | .claimShed | .supplyTimeout | .budgetReached => 6
  | .parityDropped | .writeRefused | .readDiscarded | .readStarved | .rowRejected | .orderRefused | .indexInvalid
  | .clockSet | .clockTrimmed => 7
  | .supervisorSilent | .supervisorBack => 8
  | .holdOn | .holdOff => 9

/-- A kind's position within its cause, in the order of R202 (section 12.4). -/
def Kind.place : Kind → Nat
  | .cleared => 0 | .withheld => 1 | .lapsed => 2 | .revoked => 3 | .cancelled => 4 | .suspended => 5
  | .departed => 0
  | .unauthorisedDeparture => 0 | .plugPulled => 1
  | .heatStarted => 0 | .heatComplete => 1 | .heatLate => 2 | .heatEnded => 3
  | .lampResult => 0 | .faultResult => 1
  | .contactorNoClose => 0 | .contactorWeld => 1 | .contactorReleased => 2 | .feedbackUnexpected => 3
  | .claimShed => 0 | .supplyTimeout => 1 | .budgetReached => 2
  | .parityDropped => 0 | .writeRefused => 1 | .readDiscarded => 2 | .readStarved => 3 | .rowRejected => 4
  | .orderRefused => 5 | .indexInvalid => 6 | .clockSet => 7 | .clockTrimmed => 8
  | .supervisorSilent => 0 | .supervisorBack => 1
  | .holdOn => 0 | .holdOff => 1

/-- The kind code: 16 times the cause code plus the place (section 12.4). -/
def Kind.code (k : Kind) : Nat := 16 * k.cause.val + k.place

/-- Stamp `a` is newer than stamp `b` in the serial comparison of R207. -/
def newer (a b : BitVec 32) : Bool := within (a - b).toNat 1 2147483647

/-- The set of one cause. -/
def causeBit (c : Fin 10) : Causes := BitVec.ofNat 10 (2 ^ c.val)

/-- Any bay's contactor is WELDED: the level condition of EQUIPMENT (R207). -/
def State.anyWelded (s : State) : Bool := s.ctrs.toList.any fun c => c.state == .welded

/-- The level condition of a cause (R207); seven causes have none. -/
def State.levelCondition (s : State) (c : Fin 10) : Bool :=
  if c = 5 then s.anyWelded
  else if c = 8 then s.hb.state != .live
  else if c = 9 then s.hold.taken
  else false

/-- The attention line (R209). -/
def State.attentionLine (s : State) : Bool := s.att.latches &&& ~~~ s.settings.mask != 0

/-- The depot alarm line (R209). -/
def State.alarmLine (s : State) : Bool := s.att.latches &&& s.settings.alarm != 0

/-! ### Outputs that follow the state -/

/-- The contactor drive is closed in CLOSING and CLOSED alone (table of section 4.5). -/
def CtrState.drive : CtrState → Bool
  | .closing | .closed => true
  | .open | .opening | .failedClose | .welded => false

/-- The bay-select output of a link channel: the bay of its holder, or none (R130). -/
def LinkChannel.select (c : LinkChannel) : Option Bay := c.holder.map (·.1)

/-- The bay-select output of a lamp channel (R130). -/
def LampChannel.select (c : LampChannel) : Option Bay := c.holder

/-- The frame a link channel is sending, if it is sending one (R142). -/
def LinkChannel.sending (c : LinkChannel) : Option (List Byte) :=
  match c.exch with
  | some x => if x.state == .sending then some (requestFrame x.request c.seq) else none
  | none => none

/-- The bit levels of the frame a link channel is sending; a line that sends nothing is idle at the mark level (R139). -/
def LinkChannel.sendingLevels (c : LinkChannel) : Option (List Bool) := c.sending.map fun f => ((onLine f).map LineByte.levels).flatten

/-- The bits per second at which a held link channel works: the rate taken at its grant (R136, R139). -/
def LinkChannel.bitRate (c : LinkChannel) : Option Nat := c.holder.map fun _ => Machine.bitRate c.rate

/-! ### Codes of section 12.1 -/

def Assignment.code : Assignment → Nat
  | .unassigned => 0 | .assigned => 1 | .departed => 2

def CtrState.code : CtrState → Nat
  | .open => 0 | .closing => 1 | .closed => 2 | .opening => 3 | .failedClose => 4 | .welded => 5

def SState.code : SState → Nat
  | .none => 0 | .booked => 1 | .waiting => 2 | .heating => 3 | .paused => 4 | .complete => 5 | .ended => 6 | .failed => 7

def Phase.code : Phase → Nat
  | .noEntry => 0 | .listed => 1 | .granted => 2

def HeatEnd.code : HeatEnd → Nat
  | .cancelled => 1 | .bookingRemoved => 2 | .planChanged => 3 | .departed => 4 | .waived => 5 | .noClose => 6 | .welded => 7

def Stage.code : Stage → Nat
  | .none => 0 | .supply => 1 | .queued => 2 | .running => 3 | .closing => 4

def Origin.code : Origin → Nat
  | .order => 1 | .auto => 2 | .clearance => 3

def LampStep.code : LampStep → Nat
  | .power => 1 | .link => 2 | .baseline => 3 | .groupOn => 4 | .groupOff => 5

def EndCode.code : EndCode → Nat
  | .pass => 1 | .passWithNotes => 2 | .fail => 3 | .complete => 4 | .linkFailed => 5 | .noSupply => 6 | .noChannel => 7
  | .ambient => 8 | .noWake => 9 | .identity => 10 | .plugOut => 11 | .empty => 12 | .cancelled => 13 | .refused => 14
  | .badRecord => 15

def Severity.code : Severity → Nat
  | .info => 1 | .advise => 2 | .blocking => 3

def Variant.code : Variant → Nat
  | .read => 1 | .readErase => 2

def Judged.code : Judged → Nat
  | .pass => 1 | .passWithNotes => 2 | .fail => 3

def ClrState.code : ClrState → Nat
  | .none => 0 | .preparing => 1 | .cleared => 2 | .suspended => 3 | .departing => 4

def ClrOutcome.code : ClrOutcome → Nat
  | .withheld => 1 | .lapsed => 2 | .revoked => 3 | .cancelled => 4 | .departed => 5

def Supervisor.code : Supervisor → Nat
  | .awaiting => 0 | .live => 1 | .silent => 2

/-- The code of an optional enumerated field: 0 for absence (section 12.1). -/
def optCode {α : Type} (f : α → Nat) : Option α → Nat
  | none => 0
  | some a => f a

/-- The reasons of R185 and R182, by their bits in the reason set (section 12.1). -/
def rNoPlan : Reasons := 0x0001
def rRunMismatch : Reasons := 0x0002
def rNotPresent : Reasons := 0x0004
def rIdentity : Reasons := 0x0008
def rLamp : Reasons := 0x0010
def rFault : Reasons := 0x0020
def rHeat : Reasons := 0x0040
def rPlug : Reasons := 0x0080
def rContactor : Reasons := 0x0100
def rSilent : Reasons := 0x0200
def rHold : Reasons := 0x0400
def rCheckPending : Reasons := 0x0800
def rPlanChanged : Reasons := 0x1000
def rRequested : Reasons := 0x2000
def rReversed : Reasons := 0x4000

/-- Refusal reasons of orders and requests (R47, R184, section 12.1). -/
inductive Refused
  | busy | noPlan | empty | noPlug | clearanceActive | notWelded | stillClosed | unknownKind | nothingToCancel
  deriving DecidableEq, Repr

def Refused.code : Refused → Nat
  | .busy => 1 | .noPlan => 2 | .empty => 3 | .noPlug => 4 | .clearanceActive => 5 | .notWelded => 6 | .stillClosed => 7
  | .unknownKind => 8 | .nothingToCancel => 9

end Sys2Proof.Machine
end

