-- ==== Sys2Proof/Machine/Ops.lean ====
section
/-! DEFINITION. The named operations over memory, time, events and records that every family uses. A block that changes a field
carried in a posted row does so through a setter here, which marks the row dirty on a change (R24, R67). -/

namespace Sys2Proof.Machine

open Sys2Proof.Config

/-! ### Memory -/

/-- Read one cell list; an unlisted address reads 0 (log 5). -/
def cellRead : List Host.Cell → Nat → Byte
  | [], _ => 0
  | (k, v) :: r, a => if k = a then v else cellRead r a

/-- Write one cell, keeping the list canonical: writing 0 removes the entry (log 5). -/
def cellWrite : List Host.Cell → Nat → Byte → List Host.Cell
  | [], a, v => if v = 0 then [] else [(a, v)]
  | (k, x) :: r, a, v =>
    if a < k then (if v = 0 then (k, x) :: r else (a, v) :: (k, x) :: r)
    else if a = k then (if v = 0 then r else (a, v) :: r)
    else (k, x) :: cellWrite r a v

/-- Canonical form of a cell list whose addresses lie above `lo`: rising, no zero entry. -/
def cellsFrom : Nat → List Host.Cell → Bool
  | _, [] => true
  | lo, (k, v) :: r => decide (lo ≤ k) && v != 0 && cellsFrom (k + 1) r

/-- The memory is in canonical form. -/
def Memory.wf (m : Memory) : Bool := cellsFrom 0 m.data && cellsFrom 0 m.parity

/-- The data byte at a byte address. -/
def Memory.byte (m : Memory) (a : Nat) : Byte := cellRead m.data a

/-- The parity bit stored with a byte. -/
def Memory.parityAt (m : Memory) (a : Nat) : Bool := (cellRead m.parity a).getLsbD 0

/-- The data of a memory word; byte i of a word lies at its byte address plus i (log 6). -/
def Memory.word (m : Memory) (w : BitVec 24) : Word :=
  wordOfBytes (m.byte (4 * w.toNat)) (m.byte (4 * w.toNat + 1)) (m.byte (4 * w.toNat + 2)) (m.byte (4 * w.toNat + 3))

/-- The four parity bits stored with a memory word. -/
def Memory.wordParity (m : Memory) (w : BitVec 24) : BitVec 4 :=
  BitVec.ofNat 4 (flagAt (m.parityAt (4 * w.toNat)) 0 + flagAt (m.parityAt (4 * w.toNat + 1)) 1 +
    flagAt (m.parityAt (4 * w.toNat + 2)) 2 + flagAt (m.parityAt (4 * w.toNat + 3)) 3)

/-- Write one byte with its parity bit. -/
def Memory.setByte (m : Memory) (a : Nat) (v : Byte) (p : Bool) : Memory :=
  { data := cellWrite m.data a v, parity := cellWrite m.parity a (if p then 1 else 0) }

/-- Write byte `i` of a word where the enables name it (R2). -/
def Memory.setLane (m : Memory) (w : BitVec 24) (data : Word) (en par : BitVec 4) (i : Nat) : Memory :=
  if en.getLsbD i then m.setByte (4 * w.toNat + i) (byteOf data i) (par.getLsbD i) else m

/-- A single-word Memory Port write with byte enables and parity bits (R2). -/
def Memory.setWord (m : Memory) (w : BitVec 24) (data : Word) (en par : BitVec 4) : Memory :=
  (((m.setLane w data en par 0).setLane w data en par 1).setLane w data en par 2).setLane w data en par 3

/-! ### Reads of the records -/

def State.bay (s : State) (b : Bay) : BayRec := vget s.bays b
def State.line (s : State) (b : Bay) : BayLines := vget s.lines b
def State.ctr (s : State) (b : Bay) : Contactor := vget s.ctrs b
def State.claim (s : State) (b : Bay) : ClaimRec := vget s.claims b
def State.session (s : State) (b : Bay) : Session := vget s.sessions b
def State.clearance (s : State) (b : Bay) : Clearance := vget s.clr b
def State.lampWorkOf (s : State) (b : Bay) : LampWork := vget s.lampWork b
def State.table (s : State) (b : Bay) : FaultTable := vget s.tables b
def State.summary (s : State) (b : Bay) : FaultSummary := vget s.summaries b
def State.lampResult (s : State) (b : Bay) : LampResult := vget s.lampRes b
def State.link (s : State) (c : LinkIx) : LinkChannel := vget s.links c
def State.lampCh (s : State) (c : LampIx) : LampChannel := vget s.lampChs c

/-- The pool's record of an activity of a bay (R131). -/
def State.act (s : State) (b : Bay) : Activity → ActRec
  | .lamp => vget s.lampActs b
  | .fault => vget s.faultActs b

/-- Presence is OCCUPIED, as taken. -/
def State.occupied (s : State) (b : Bay) : Bool := (s.line b).presence.taken
/-- The plug is IN, as taken. -/
def State.plugged (s : State) (b : Bay) : Bool := (s.line b).plug.taken
/-- The exit loop is OCCUPIED, as taken. -/
def State.looped (s : State) (b : Bay) : Bool := (s.line b).loop.taken
/-- The contactor feedback is closed, as taken. -/
def State.fedBack (s : State) (b : Bay) : Bool := (s.line b).feedback.taken
/-- The contactor drive of a bay (section 4.5). -/
def State.drive (s : State) (b : Bay) : Bool := (s.ctr b).state.drive
/-- The bay is ASSIGNED. -/
def State.isAssigned (s : State) (b : Bay) : Bool := (s.bay b).assignment == .assigned

/-- The class row, as now committed, that the bay's plan copy names (R36). -/
def State.classOf (s : State) (b : Bay) : Option ClassRow :=
  match (s.bay b).plan with
  | some p => vget s.classes p.classIx
  | none => none

/-! ### Time (chapter 3) -/

/-- The sub-second phase of the clock (R55). -/
def State.phase (s : State) : Nat := if s.clock.valid then s.timeBase - s.clock.phaseFrom else 0

/-- The time base reading in milliseconds (R56). -/
def State.milliseconds (s : State) : Nat := s.timeBase / unitsPerMs % 4294967296

/-- The time base has gone on to instant `t` at least (log 2). -/
def State.advanceTo (s : State) (t : Nat) : State := { s with timeBase := max s.timeBase t }

/-- One unit of the time base passes: what a step does on an empty queue (log 3). -/
def tick (s : State) : State := { s with timeBase := s.timeBase + 1 }

/-- The clock reading a block records: present while the clock is VALID (R63). -/
def State.clockTime (s : State) : Option TimeOfDay :=
  if s.clock.valid then some { day := s.clock.day, sec := s.clock.sec } else none

/-- The minute count of a time of day (R61). -/
def TimeOfDay.minutes (t : TimeOfDay) : Nat := t.day * 1440 + t.sec / 60

/-- The minute count of the current time, absent while the clock is INVALID (R61, R62). -/
def State.nowMinute (s : State) : Option Nat := s.clockTime.map TimeOfDay.minutes

/-- The forward difference from `a` to `b` (R61). -/
def forward (a b : Nat) : Nat := (b % minuteCounts + minuteCounts - a % minuteCounts) % minuteCounts

/-- `b` is at or after `a` (R61). -/
def atOrAfter (b a : Nat) : Bool := decide (forward a b < halfCounts)

/-- `t` minus `d` minutes (R62). -/
def minusMinutes (t d : Nat) : Nat := (t % minuteCounts + minuteCounts - d % minuteCounts) % minuteCounts

/-- `t` plus `d` minutes (R62). -/
def plusMinutes (t d : Nat) : Nat := (t + d) % minuteCounts

/-- `t` has been reached (R62). -/
def State.reached (s : State) (t : Nat) : Bool := s.nowMinute.any fun n => atOrAfter n t

/-- `t` lies within `h` minutes of now (R62). -/
def State.withinMinutes (s : State) (t h : Nat) : Bool := s.reached (minusMinutes t h)

/-- The result recorded at `r` is fresh under limit `f` (R62). -/
def State.isFresh (s : State) (r : Option TimeOfDay) (f : Nat) : Bool :=
  match r, s.nowMinute with
  | some t, some n => atOrAfter n t.minutes && decide (forward t.minutes n ≤ f)
  | _, _ => false

/-! ### Dirty marks (R24) and the agenda (log 15) -/

/-- The row position of a bay's status row (R24). -/
def rowPos (b : Bay) : Fin 32 := ⟨b.val, by omega⟩

/-- The row position of a bay's fault block (R24). -/
def blockPos (b : Bay) : Fin 32 := ⟨16 + b.val, by omega⟩

/-- Mark a row position dirty; through the start-up reload the dirty set stays empty (R24). -/
def State.markPos (s : State) (p : Fin 32) : State :=
  { s with post := { s.post with dirty := if s.path.reload.isSome then s.post.dirty else vset s.post.dirty p true } }

/-- Mark a bay's status row dirty if a carried field has changed (R67). -/
def State.markRow (s : State) (b : Bay) (changed : Bool) : State := if changed then s.markPos (rowPos b) else s

/-- Mark a bay's fault block dirty if a carried field has changed (R153). -/
def State.markBlock (s : State) (b : Bay) (changed : Bool) : State := if changed then s.markPos (blockPos b) else s

/-- The Admission list is to be examined, or shedding tested (R102, R107). -/
def State.askAdmission (s : State) : State := { s with agenda := { s.agenda with admission := true } }

/-- Preemption is to be tested (R104, R106), or shedding (R96, R107), without an examination of the list. -/
def State.askLoad (s : State) (preempt shed : Bool) : State :=
  { s with agenda := { s.agenda with preempt := s.agenda.preempt || preempt, shed := s.agenda.shed || shed } }

/-- The Channel Waiting List is to be examined (R135). -/
def State.askPool (s : State) : State := { s with agenda := { s.agenda with pool := true } }

/-- The bay's clearance, if PREPARING, is to be vetted again (R188). -/
def State.askVet (s : State) (b : Bay) : State := { s with agenda := { s.agenda with vet := vset s.agenda.vet b true } }

/-- Ask for a vetting if something it depends on has changed (R188). -/
def State.askVetIf (s : State) (b : Bay) (changed : Bool) : State := if changed then s.askVet b else s

/-- Every PREPARING clearance is to be vetted again (R188). -/
def State.askVetAll (s : State) : State := { s with agenda := { s.agenda with vet := Vector.replicate 16 true } }

/-! ### Setters that mark the status row -/

/-- The carried part of the Bay Record's own fields (section 12.3 words 0 to 2). -/
def BayRec.shown (r : BayRec) : BayRec :=
  { r with roster := none, plan := r.plan.map fun p => { p with autoChecks := false, roster := none, readyBy := none } }

def State.setBay (s : State) (b : Bay) (r : BayRec) : State :=
  { s with bays := vset s.bays b r }.markRow b ((s.bay b).shown != r.shown)

/-- The taken values of a bay's lines, as the status row carries them. -/
def BayLines.shown (l : BayLines) : Bool × Bool × Bool × Bool := (l.presence.taken, l.plug.taken, l.loop.taken, l.feedback.taken)

def State.setLines (s : State) (b : Bay) (l : BayLines) : State :=
  { s with lines := vset s.lines b l }.markRow b ((s.line b).shown != l.shown)

def State.setCtr (s : State) (b : Bay) (c : Contactor) : State :=
  { s with ctrs := vset s.ctrs b c }.markRow b ({ s.ctr b with limit := none, startUp := false } != { c with limit := none, startUp := false })

/-- The carried part of a claim record (section 12.3 word 3). -/
def ClaimRec.shown (c : ClaimRec) : ClaimRec :=
  { c with heat := c.heat.map fun h => { h with since := 0, hold := none, eligible := false } }

/-- A change of a claim component marks the row (R94) and is handed to the Clearance Unit (R185, R188). -/
def State.setClaim (s : State) (b : Bay) (c : ClaimRec) : State :=
  ({ s with claims := vset s.claims b c }.markRow b ((s.claim b).shown != c.shown)).askVetIf b ((s.claim b).shown != c.shown)

/-- The carried part of a session (R128). -/
def Session.view (x : Session) : Session := { x with saved := 0, since := none, arrival := none }

/-- A change of the session's state leads to a vetting (R188). -/
def State.setSession (s : State) (b : Bay) (x : Session) : State :=
  ({ s with sessions := vset s.sessions b x }.markRow b ((s.session b).view != x.view)).askVetIf b ((s.session b).state != x.state)

/-- The carried part of an activity (R131): stage, origin and variant. -/
def ActRec.shown (a : ActRec) : Stage × Option Origin × Variant := (a.stage, a.origin, a.variant)

/-- A change of a check's stage leads to a vetting (R188). -/
def State.setAct (s : State) (b : Bay) (act : Activity) (a : ActRec) : State :=
  let s' := match act with
    | .lamp => { s with lampActs := vset s.lampActs b a }
    | .fault => { s with faultActs := vset s.faultActs b a }
  (s'.markRow b ((s.act b act).shown != a.shown)).askVetIf b ((s.act b act).stage != a.stage)

def State.setLampWork (s : State) (b : Bay) (w : LampWork) : State :=
  { s with lampWork := vset s.lampWork b w }.markRow b
    ((s.lampWorkOf b).step != w.step || (s.lampWorkOf b).group != w.group)

def State.setLampResult (s : State) (b : Bay) (r : LampResult) : State :=
  { s with lampRes := vset s.lampRes b r }.markRow b (s.lampResult b != r)

def State.setSummary (s : State) (b : Bay) (r : FaultSummary) : State :=
  { s with summaries := vset s.summaries b r }.markRow b (s.summary b != r)

/-- The working state of a fault read (R155), which no row carries. -/
def State.setRead (s : State) (b : Bay) (w : ReadWork) : State := { s with reads := vset s.reads b w }

/-- The carried part of a clearance (R182). -/
def Clearance.shown (c : Clearance) : Clearance :=
  { c with lampPlaced := false, faultPlaced := false, prep := none, lapse := .stopped, reverse := none,
           request := c.request.map fun r => { r with seq := 0 } }

def State.setClearance (s : State) (b : Bay) (c : Clearance) : State :=
  { s with clr := vset s.clr b c }.markRow b ((s.clearance b).shown != c.shown)

/-- The bay a holder names has its row marked when its channel number changes (R131). -/
def State.markHolder (s : State) (h : Option Bay) (changed : Bool) : State :=
  match h with
  | some b => s.markRow b changed
  | none => s

def State.setLink (s : State) (ch : LinkIx) (c : LinkChannel) : State :=
  ({ s with links := vset s.links ch c }.markHolder (s.link ch).select ((s.link ch).select != c.select)).markHolder
    c.select ((s.link ch).select != c.select)

def State.setLampCh (s : State) (ch : LampIx) (c : LampChannel) : State :=
  ({ s with lampChs := vset s.lampChs ch c }.markHolder (s.lampCh ch).select ((s.lampCh ch).select != c.select)).markHolder
    c.select ((s.lampCh ch).select != c.select)

/-! ### Events (R201, R203, R207) -/

/-- A created event joins the Event Buffer, or is counted missed when the buffer is full (R203). -/
def EventUnit.add (u : EventUnit) (r : EventRec) : EventUnit :=
  if u.buffer.length < bufferCapacity then { u with stamp := r.stamp, buffer := u.buffer ++ [r] }
  else { u with stamp := r.stamp, missed := u.missed + 1 }

/-- The Attention Unit takes the cause and stamp of a created event (R207). -/
def Attention.latch (t : Attention) (c : Fin 10) (stamp : BitVec 32) : Attention :=
  { latches := t.latches ||| causeBit c, newest := vset t.newest c (some stamp) }

/-- The event record a raise creates (R201). -/
def State.eventRec (s : State) (k : Kind) (b : Option Bay) (detail seq : Nat) : EventRec :=
  { stamp := s.ev.stamp + 1, kind := k, bay := b, detail := BitVec.ofNat 16 detail, time := s.clockTime, seq := BitVec.ofNat 8 seq }

/-- Raise an event. No event is created while the start-up reload runs (R17, R30, R201). -/
def State.raise (s : State) (k : Kind) (b : Option Bay) (detail : Nat) (seq : Nat := 0) : State :=
  if s.path.reload.isSome then s
  else { s with ev := s.ev.add (s.eventRec k b detail seq), att := s.att.latch k.cause (s.ev.stamp + 1) }

/-! ### Counting heat time (R119) -/

/-- The required time of a session in units of the time base. -/
def Session.requiredUnits (x : Session) : Nat := x.required * minute

/-- The accumulated time of a session: the saved count and the time counted since, never above the required time (R112). -/
def State.accumulated (s : State) (b : Bay) : Nat :=
  let x := s.session b
  match x.since with
  | some t => min x.requiredUnits (x.saved + (s.timeBase - t))
  | none => x.saved

/-- The part's answer to a Processor Port transaction (R1). -/
def State.answer (s : State) (p : Port) : State := { s with path := { s.path with port := p } }

end Sys2Proof.Machine
end

