-- ==== Sys2Proof/Machine/Admission.lean ====
section
/-! DEFINITION. Feeder Admission: budgets, claim records, the waiting list, bars, requests, returns, shed order (R91 to R100, R105). -/

namespace Sys2Proof.Machine

open Sys2Proof.Config

/-! ### Budgets (R91, R93) -/

/-- The load of a bay's held components (R94). -/
def ClaimRec.total (c : ClaimRec) : Nat :=
  c.standing.getD 0 + (match c.heat with | some h => h.amount | none => 0) + c.lamp.getD 0

/-- The granted total over all bays (R91). -/
def State.granted (s : State) : Nat := (s.claims.toList.map ClaimRec.total).foldl (· + ·) 0

/-- The effective budget recomputed: the larger of the target budget and the granted total (R91). -/
def State.recomputeEffective (s : State) : State := { s with effective := max s.settings.target s.granted }

/-- Recompute the effective budget after a change of the granted total or of the target, the target before having been `oldTarget`.
At the end of a period above the target BUDGET_REACHED is raised; the list is then examined or shedding tested (R91, R93, R102, R107). -/
def State.rebudget (s : State) (oldTarget : Nat) : State :=
  let e := max s.settings.target s.granted
  let s' := { s with effective := e }.askAdmission
  if decide (oldTarget < s.effective) && e == s.settings.target then s'.raise .budgetReached none s.settings.target else s'

/-! ### Components (R94, R95) -/

/-- The bay holds neither HEAT nor LAMP. -/
def ClaimRec.noIncrement (c : ClaimRec) : Bool := c.heat.isNone && c.lamp.isNone

/-- A bay's STANDING component goes back when it alone is held and the contactor is OPEN or FAILED_CLOSE (R95). -/
def State.returnStanding (s : State) (b : Bay) : State :=
  let c := s.claim b
  let st := (s.ctr b).state
  if c.standing.isSome && c.noIncrement && (st == .open || st == .failedClose) then
    (s.setClaim b { c with standing := none }).rebudget s.settings.target
  else s

/-- The claim record without the component of a purpose. -/
def ClaimRec.without (c : ClaimRec) : Purpose → ClaimRec
  | .heat => { c with heat := none }
  | .lamp => { c with lamp := none }

/-- The bay holds the component of a purpose. -/
def ClaimRec.holds (c : ClaimRec) : Purpose → Bool
  | .heat => c.heat.isSome
  | .lamp => c.lamp.isSome

/-- A claimant returns its component; a return of a component not held has no effect (R95). -/
def State.returnComponent (s : State) (b : Bay) (p : Purpose) : State :=
  if (s.claim b).holds p then
    ((s.setClaim b ((s.claim b).without p)).rebudget s.settings.target).returnStanding b
  else s

/-- The amounts of the class row that the bay's plan copy names (R94). -/
def State.standingAmount (s : State) (b : Bay) : Nat := match s.classOf b with | some c => c.standing | none => 0
def State.heatAmount (s : State) (b : Bay) : Nat := match s.classOf b with | some c => c.heat | none => 0
def State.lampAmount (s : State) (b : Bay) : Nat := match s.classOf b with | some c => c.lamp | none => 0

/-- The amount an entry needs now: its own, and STANDING when the bay does not hold it (R97). -/
def State.entryAmount (s : State) (b : Bay) (p : Purpose) : Nat :=
  (match p with | .heat => s.heatAmount b | .lamp => s.lampAmount b) +
  (if (s.claim b).standing.isSome then 0 else s.standingAmount b)

/-! ### Bars (R99) -/

/-- The clearance states that bar a purpose (R99). -/
def ClrState.bars : ClrState → Purpose → Bool
  | .none, _ => false
  | .preparing, .heat => true
  | .preparing, .lamp => false
  | .cleared, _ | .suspended, _ | .departing, _ => true

/-- The bay is barred from grants for the purpose (R99). -/
def State.barred (s : State) (b : Bay) (p : Purpose) : Bool :=
  !s.isAssigned b || (s.ctr b).state == .welded || (s.clearance b).state.bars p

/-! ### The list (R97) -/

/-- HEAT before LAMP (R97). -/
def Purpose.order : Purpose → Nat
  | .heat => 0
  | .lamp => 1

/-- The list's order as one number list, compared from the front (R97). -/
def AEntry.key (e : AEntry) : List Nat := [if e.urgent then 0 else 1, e.arrival, e.bay.val, e.purpose.order]

/-- Lexicographic order of keys. -/
def keyLt : List Nat → List Nat → Bool
  | a :: as, b :: bs => decide (a < b) || (a == b && keyLt as bs)
  | _, _ => false

/-- Insert an entry at its place (R97). -/
def insertAdm (e : AEntry) : List AEntry → List AEntry
  | [] => [e]
  | x :: r => if keyLt e.key x.key then e :: x :: r else x :: insertAdm e r

/-- The entry of a bay and purpose. -/
def AEntry.is (e : AEntry) (b : Bay) (p : Purpose) : Bool := e.bay == b && e.purpose == p

/-- The entry of a bay and purpose, if the list holds one (R97). -/
def State.admEntry (s : State) (b : Bay) (p : Purpose) : Option AEntry := s.admList.find? (·.is b p)

/-- The arrival counter after a new number is taken: it advances by one and stays at its last value (R97, R132). -/
def nextArrival (n : Nat) : Nat := if n < lastArrival then n + 1 else n

/-- The bay's departure roster time lies within the departure horizon in use (R100, R134). -/
def State.rosterNear (s : State) (b : Bay) : Bool :=
  match (s.bay b).roster with
  | some t => s.withinMinutes t s.horizon
  | none => false

/-- The level an entry takes now: LAMP is always URGENT, HEAT by the roster time (R100). -/
def State.admUrgent (s : State) (b : Bay) : Purpose → Bool
  | .lamp => true
  | .heat => s.rosterNear b

/-- An entry leaves the list, and the list is examined (R98). -/
def State.withdraw (s : State) (b : Bay) (p : Purpose) : State :=
  if (s.admEntry b p).isSome then { s with admList := s.admList.filter fun e => !e.is b p }.askAdmission else s

/-- Place an entry with an arrival number (R97, R98, R108). -/
def State.placeAdm (s : State) (b : Bay) (p : Purpose) (n : Nat) : State :=
  let wait := match p with
    | .lamp => some (s.timeBase + supplyWait)
    | .heat => none
  let e : AEntry := ⟨b, p, s.admUrgent b p, n, wait⟩
  { s with admList := insertAdm e (s.admList.filter fun x => !x.is b p) }.askAdmission

/-- How Admission answers a request increment (R98). -/
inductive Requested
  | refused
  | noEffect
  | listed (arrival : Nat)
  deriving DecidableEq, Repr

/-- What the state becomes at a request increment (R98); `n` is the arrival number the request carries, if it carries one. -/
def State.request (s : State) (b : Bay) (p : Purpose) (n : Option Nat) : State :=
  if s.barred b p || (s.admEntry b p).isSome || (s.claim b).holds p then s
  else match n with
    | some k => s.placeAdm b p k
    | none => { s with admCounter := nextArrival s.admCounter }.placeAdm b p s.admCounter

/-- What Admission tells the requester (R98). -/
def State.requestAnswer (s : State) (b : Bay) (p : Purpose) (n : Option Nat) : Requested :=
  if s.barred b p then .refused
  else if (s.admEntry b p).isSome || (s.claim b).holds p then .noEffect
  else .listed (n.getD s.admCounter)

/-! ### Levels (R100) -/

/-- Re-evaluate the level of every HEAT entry, moving entries to their place (R100). -/
def State.relevelAdm (s : State) : State :=
  let es := s.admList.map fun e => { e with urgent := s.admUrgent e.bay e.purpose }
  if es == s.admList then s else { s with admList := es.foldl (fun l e => insertAdm e l) [] }.askAdmission

/-- Re-evaluate the level of a bay's held HEAT component; a change leads to a test of preemption or shedding (R100). -/
def State.relevelClaim (s : State) (b : Bay) : State :=
  match (s.claim b).heat with
  | some h =>
    if h.urgent == s.rosterNear b then s
    else (s.setClaim b { s.claim b with heat := some { h with urgent := s.rosterNear b } }).askLoad true true
  | none => s

/-! ### Settling and shed order (R105) -/

/-- The bay's STANDING component waits only for the confirmed-open notice (R105). -/
def State.settling (s : State) (b : Bay) : Bool :=
  (s.claim b).standing.isSome && (s.claim b).noIncrement && (s.ctr b).state != .welded

/-- The projected total (R105). -/
def State.projected (s : State) : Nat :=
  s.granted - ((List.finRange 16).map fun b => if s.settling b then (s.claim b).standing.getD 0 else 0).foldl (· + ·) 0

/-- The departure roster time of the bay's plan copy (R105). -/
def State.planRoster (s : State) (b : Bay) : Option Nat :=
  match (s.bay b).plan with
  | some p => p.roster
  | none => none

/-- Bay `x` comes before bay `y` in shed order (R105). -/
def State.shedsBefore (s : State) (x y : Bay) : Bool :=
  match s.planRoster x, s.planRoster y with
  | none, none => decide (y.val < x.val)
  | none, some _ => true
  | some _, none => false
  | some tx, some ty => if forward ty tx == 0 then decide (y.val < x.val) else atOrAfter tx ty

/-- The first bay of a list in shed order (R105). R61 gives no total order to roster times half the day circle apart or comparing in a cycle; there
the bay found first from the end of the list stays (DESIGN CHOICE, log 39). -/
def State.firstToShed (s : State) : List Bay → Option Bay
  | [] => none
  | b :: r =>
    match s.firstToShed r with
    | none => some b
    | some c => if s.shedsBefore b c then some b else some c

/-- The bays whose held HEAT component meets a test. -/
def State.heatHolders (s : State) (t : Bay → HeatClaim → Bool) : List Bay :=
  (List.finRange 16).filter fun b => match (s.claim b).heat with | some h => t b h | none => false

/-- The next component to shed while the effective budget is above the target: NORMAL before URGENT (R107). -/
def State.reductionCandidate (s : State) : Option Bay :=
  match s.firstToShed (s.heatHolders fun _ h => !h.urgent) with
  | some b => some b
  | none => s.firstToShed (s.heatHolders fun _ h => h.urgent)

/-- The next component to shed for an URGENT head entry: NORMAL, eligible, and not the head's own bay's (R104, R106). -/
def State.preemptionCandidate (s : State) (head : Bay) : Option Bay :=
  s.firstToShed (s.heatHolders fun b h => !h.urgent && h.eligible && b != head)

end Sys2Proof.Machine
end

