-- ==== Sys2Proof/Machine/Channels.lean ====
section
/-! DEFINITION. The Channel Pool's list and channels: placing, levels, removal, the reservation (R130 to R134, R137). -/

namespace Sys2Proof.Machine

open Sys2Proof.Config

/-! ### Channels (R130) -/

/-- The link channel an activity of a bay holds, lowest number first (R130). -/
def State.linkOf (s : State) (b : Bay) (act : Activity) : Option LinkIx :=
  (List.finRange 4).find? fun c => (s.link c).holder == some (b, act)

/-- The bay holds a link channel (R135). -/
def State.holdsLink (s : State) (b : Bay) : Bool :=
  (List.finRange 4).any fun c => (s.link c).select == some b

/-- The lamp channel a bay holds (R130). -/
def State.lampChOf (s : State) (b : Bay) : Option LampIx :=
  (List.finRange 2).find? fun c => (s.lampCh c).holder == some b

/-- The free link channel with the lowest number (R130). -/
def State.freeLink (s : State) : Option LinkIx := (List.finRange 4).find? fun c => (s.link c).holder.isNone

/-- The free lamp channel with the lowest number (R130). -/
def State.freeLamp (s : State) : Option LampIx := (List.finRange 2).find? fun c => (s.lampCh c).holder.isNone

/-! ### The list (R132) -/

/-- FAULT before LAMP (R132). -/
def activityOrder : Activity → Nat
  | .fault => 0
  | .lamp => 1

/-- The list's order as one number list (R132). -/
def CEntry.key (e : CEntry) : List Nat := [if e.urgent then 0 else 1, e.arrival, e.bay.val, activityOrder e.act]

/-- Insert an entry at its place (R132). -/
def insertChan (e : CEntry) : List CEntry → List CEntry
  | [] => [e]
  | x :: r => if keyLt e.key x.key then e :: x :: r else x :: insertChan e r

/-- The entry of a bay and activity. -/
def CEntry.is (e : CEntry) (b : Bay) (act : Activity) : Bool := e.bay == b && e.act == act

/-- The entry of a bay and activity, if the list holds one (R132). -/
def State.chanEntry (s : State) (b : Bay) (act : Activity) : Option CEntry := s.poolList.find? (·.is b act)

/-- The level an entry of the bay takes now (R134). -/
def State.chanUrgent (s : State) (b : Bay) : Bool := s.rosterNear b || (s.clearance b).state == .preparing

/-! ### The reservation (R137) -/

/-- The first URGENT LAMP entry in list order (R137). -/
def State.firstUrgentLamp (s : State) : Option CEntry := s.poolList.find? fun e => e.urgent && e.act == .lamp

/-- Test the reservation: while it is absent, it begins for a first URGENT LAMP entry that has waited 2 min, and otherwise the
reservation timer runs for that entry, or is stopped (R137). A change of the list at the very instant the 2 min are up acts as if the timer's expiry
came first (DESIGN CHOICE, log 43). -/
def State.testReservation (s : State) : State :=
  if s.reservation.isSome then s
  else match s.firstUrgentLamp with
    | none => { s with resTimer := none }
    | some e =>
      if e.since + reservationWait ≤ s.timeBase then { s with reservation := some e.bay, resTimer := none }
      else { s with resTimer := some (e.bay, e.since + reservationWait) }

/-- The reservation ends when its entry leaves the list: a new one is tested for, and the list is examined (R137). -/
def State.endReservation (s : State) (b : Bay) (act : Activity) : State :=
  if act == .lamp && s.reservation == some b then { s with reservation := none }.askPool else s

/-- An entry leaves the list (R133, R136, R138). -/
def State.removeChan (s : State) (b : Bay) (act : Activity) : State :=
  if (s.chanEntry b act).isSome then
    ({ s with poolList := s.poolList.filter fun e => !e.is b act }.endReservation b act).testReservation
  else s

/-- Re-evaluate the levels of the entries whose bay meets `t`, moving entries to their place (R134). -/
def State.relevelChans (s : State) (t : Bay → Bool) : State :=
  let es := s.poolList.map fun e => if t e.bay then { e with urgent := s.chanUrgent e.bay } else e
  if es == s.poolList then s
  else ({ s with poolList := es.foldl (fun l e => insertChan e l) [] }.testReservation).askPool

/-- The pool takes a place request: an entry with a new arrival number, and the activity in QUEUED (R133). The reservation is tested before the list
is examined (DESIGN CHOICE, log 43). -/
def State.placeChan (s : State) (b : Bay) (act : Activity) : State :=
  if (s.chanEntry b act).isSome || (s.linkOf b act).isSome then s
  else
    let a := s.act b act
    let e : CEntry := ⟨b, act, a.variant, s.chanUrgent b, s.poolCounter, a.origin.getD .order, s.timeBase, s.timeBase + channelWait⟩
    ((({ s with poolList := insertChan e s.poolList, poolCounter := nextArrival s.poolCounter }.setAct b act
      { a with stage := .queued }).testReservation).askPool)

end Sys2Proof.Machine
end

