-- ==== Sys2Proof/Machine/ClearanceRecord.lean ====
section
/-! DEFINITION. The clearance record: its ending (R183) and the exit signal (R88). -/

namespace Sys2Proof.Machine

/-- The Bay Unit sets the exit signal (R88). -/
def State.setSignal (s : State) (b : Bay) (proceed : Bool) : State := s.setBay b { s.bay b with proceed := proceed }

/-- The event kind of an outcome (R183). -/
def ClrOutcome.kind : ClrOutcome → Kind
  | .withheld => .withheld
  | .lapsed => .lapsed
  | .revoked => .revoked
  | .cancelled => .cancelled
  | .departed => .departed

/-- The run number of the bay's plan copy, 0 without one (section 12.3). -/
def State.planRun (s : State) (b : Bay) : Nat :=
  match (s.bay b).plan with
  | some p => p.run
  | none => 0

/-- Raise the event of an outcome: the reasons as detail and the sequence of the request concerned, or for DEPARTED the run number
(R183, section 12.4). LAPSED has detail 0, since it has no reasons. -/
def State.raiseOutcome (s : State) (b : Bay) (o : ClrOutcome) (reasons : Reasons) (seq : Nat) : State :=
  match o with
  | .departed => s.raise .departed (some b) (s.planRun b)
  | .withheld | .lapsed | .revoked | .cancelled => s.raise o.kind (some b) reasons.toNat seq

/-- The record of an ended clearance (R183 steps 1 to 4). -/
def Clearance.endedWith (c : Clearance) (o : ClrOutcome) (reasons : Reasons) (t : Option TimeOfDay) : Clearance :=
  { c with state := .none, request := none, failing := 0, lampPlaced := false, faultPlaced := false, outcome := some o,
           reasons := reasons, outcomeTime := t, prep := none, lapse := .stopped, reverse := none }

/-- End a clearance with an outcome, in one event (R183). Admission's bar ends with the state (R99). -/
def State.endClearance (s : State) (b : Bay) (o : ClrOutcome) (reasons : Reasons) : State :=
  let c := s.clearance b
  let s1 := s.setClearance b (c.endedWith o reasons s.clockTime)
  let s2 := if c.state == .preparing then s1.relevelChans (· == b) else s1
  let s3 := s2.setSignal b false
  s3.raiseOutcome b o reasons (match c.request with | some r => r.seq | none => 0)

end Sys2Proof.Machine
end

