-- ==== Sys2Proof/Machine/Contactor.lean ====
section
/-! DEFINITION. The contactor of a bay: movement, claims, releases, notices (R76 to R84, R87). -/

namespace Sys2Proof.Machine

open Sys2Proof.Config

/-- A clearance state that ends when the contactor leaves OPEN (R191 to R193, R197). -/
def ClrState.needsOpen : ClrState → Bool
  | .cleared | .suspended | .departing => true
  | .none | .preparing => false

/-- Put the contactor in a state with its limit timer, and hand the change to the Clearance Unit in the same event: leaving OPEN
revokes a CLEARED, SUSPENDED or DEPARTING clearance, and a PREPARING one is vetted again (R76, R188, R197). -/
def State.moveCtr (s : State) (b : Bay) (st : CtrState) (limit : Timer) : State :=
  let old := (s.ctr b).state
  let s1 := (s.setCtr b { s.ctr b with state := st, limit := limit, startUp := false }).askVetIf b (old != st)
  if old == .open && st != .open && (s.clearance b).state.needsOpen then s1.endClearance b .revoked rContactor else s1

/-- Drive closed from OPEN: CLOSING with the 3 s limit (R77, R80). -/
def State.driveClosed (s : State) (b : Bay) : State := s.moveCtr b .closing (some (s.timeBase + contactorLimit))

/-- The claimant set is not empty. -/
def Contactor.claimed (c : Contactor) : Bool := c.heat || c.lamp

/-- OPENING ends in OPEN: the confirmed-open notice, and the drive closes again for claimants that joined (R80, R82). -/
def State.openingEnds (s : State) (b : Bay) : State :=
  let s1 := (s.moveCtr b .open none).returnStanding b
  if (s1.ctr b).claimed then s1.driveClosed b else s1

/-- The drive opens from CLOSING or CLOSED: OPENING, which an open feedback ends at once in OPEN (R78, R80, R84). -/
def State.driveOpen (s : State) (b : Bay) : State :=
  let s1 := s.moveCtr b .opening (some (s.timeBase + contactorLimit))
  if s.fedBack b then s1 else s1.openingEnds b

/-- The claimant set with or without a claimant; without HEAT the pilot is OFF (R78, R87). -/
def Contactor.withClaimant (c : Contactor) (p : Purpose) (held : Bool) : Contactor :=
  match p with
  | .heat => { c with heat := held, pilot := c.pilot && held }
  | .lamp => { c with lamp := held }

/-- The claimant is in the set. -/
def Contactor.has (c : Contactor) : Purpose → Bool
  | .heat => c.heat
  | .lamp => c.lamp

/-- How the Bay Unit answers a claim (R77): refused with a reason, joined and waiting, or joined with the closed notice at once. -/
inductive ClaimAnswer
  | refusedNoPlug
  | refusedWelded
  | joined
  | closed
  deriving DecidableEq, Repr

/-- The answer to a claim made now (R77). -/
def State.claimAnswer (s : State) (b : Bay) (p : Purpose) : ClaimAnswer :=
  if !s.plugged b then .refusedNoPlug
  else if (s.ctr b).state == .welded then .refusedWelded
  else if (s.ctr b).has p then .joined
  else if (s.ctr b).state == .closed then .closed
  else .joined

/-- The state after a claim (R77). FAILED_CLOSE returns to OPEN first, without event. -/
def State.claimCtr (s : State) (b : Bay) (p : Purpose) : State :=
  match s.claimAnswer b p with
  | .refusedNoPlug | .refusedWelded => s
  | .joined | .closed =>
    if (s.ctr b).has p then s
    else
      let s1 := s.setCtr b ((s.ctr b).withClaimant p true)
      match (s.ctr b).state with
      | .open => s1.driveClosed b
      | .failedClose => (s1.moveCtr b .open none).driveClosed b
      | .closing | .closed | .opening | .welded => s1

/-- A claimant releases its claim; the last one leaving a CLOSED or CLOSING contactor opens the drive (R78). -/
def State.releaseCtr (s : State) (b : Bay) (p : Purpose) : State :=
  if (s.ctr b).has p then
    let s1 := s.setCtr b ((s.ctr b).withClaimant p false)
    if (s1.ctr b).claimed then s1
    else match (s1.ctr b).state with
      | .closing | .closed => s1.driveOpen b
      | .open | .opening | .failedClose | .welded => s1
  else s

/-- Every claimant leaves the set and the pilot goes OFF (R79 to R81, R84, R87). -/
def State.emptySet (s : State) (b : Bay) : State :=
  s.setCtr b { s.ctr b with heat := false, lamp := false, pilot := false }

/-- The claimant set as the detail of CONTACTOR_NO_CLOSE (section 12.4). -/
def Contactor.setCode (c : Contactor) : Nat := flagAt c.heat 0 + flagAt c.lamp 1

end Sys2Proof.Machine
end

