-- ==== Sys2Proof/Machine/Heat.lean ====
section
/-! DEFINITION. Cabin Pre-heat: the session of a bay from its booking to its end (R111 to R128). -/

namespace Sys2Proof.Machine

open Sys2Proof.Config

/-- BOOKED, WAITING, HEATING and PAUSED are the live states (R111). -/
def SState.live : SState → Bool
  | .booked | .waiting | .heating | .paused => true
  | .none | .complete | .ended | .failed => false

/-! ### Counting (R119) -/

/-- The count stops; the accumulated time is saved and shown (R119, R128). -/
def State.stopCount (s : State) (b : Bay) : State :=
  let x := s.session b
  match x.since with
  | some _ => s.setSession b { x with saved := s.accumulated b, since := none, shown := s.accumulated b / minute }
  | none => s

/-- The instant at which the count of a HEATING session reaches the required time (R119). -/
def Session.fullAt (x : Session) : Timer := x.since.map fun t => t + (x.requiredUnits - x.saved)

/-- The instant at which the whole-minute figure shown in the status row changes next (R119). -/
def Session.minuteAt (x : Session) : Timer := x.since.map fun t => t + ((x.shown + 1) * minute - x.saved)

/-! ### Supply (R116, R119, R125) -/

/-- The session gives up what it holds of Admission and the contactor, by its supply phase (R115, R125, R127). -/
def State.dropSupply (s : State) (b : Bay) : State :=
  match (s.session b).phase with
  | .granted => (s.releaseCtr b .heat).returnComponent b .heat
  | .listed => s.withdraw b .heat
  | .noEntry => s

/-- Ask for supply: a request with the original arrival number, or for a new one (R116). -/
def State.askSupply (s : State) (b : Bay) : State :=
  match s.requestAnswer b .heat (s.session b).arrival with
  | .listed n => (s.request b .heat (s.session b).arrival).setSession b { s.session b with phase := .listed, arrival := some n }
  | .refused | .noEffect => s

/-- The session enters COMPLETE (R115, R119, R127); what it holds goes back before HEAT_COMPLETE is raised (DESIGN CHOICE, log 45). -/
def State.completeSession (s : State) (b : Bay) (late : Bool) : State :=
  let s1 := (s.stopCount b).dropSupply b
  let s2 := s1.setSession b { s1.session b with state := .complete, phase := .noEntry, late := late, pauseShed := false, pausePlug := false }
  s2.raise .heatComplete (some b) ((s.session b).required + flagAt late 8)

/-- A PAUSED session whose count has reached its required time completes at once (R121, R127; log 25). -/
def State.completeIfFull (s : State) (b : Bay) : State :=
  if (s.session b).state == .paused && s.accumulated b == (s.session b).requiredUnits then s.completeSession b (s.session b).late else s

/-! ### Bookings and starting (R113 to R115) -/

/-- The heat minutes of the committed band in the committed class row the plan copy names (R113). -/
def State.heatMinutes (s : State) (b : Bay) : Nat :=
  match s.classOf b with
  | some c => vget c.heatMin (Fin.ofNat 4 s.settings.band)
  | none => 0

/-- The current minute lies after the session's start minute (R115). -/
def State.afterStart (s : State) (b : Bay) : Bool :=
  match (s.session b).start, s.nowMinute with
  | some t, some n => forward t n != 0
  | _, _ => false

/-- The start time has been reached (R62, R115). -/
def State.startReached (s : State) (b : Bay) : Bool := (s.session b).start.any fun t => s.reached t

/-- A session without heat to give completes when its start time is reached (R115). -/
def State.zeroPasses (s : State) (b : Bay) : Bool := (s.session b).required == 0 && s.startReached b

/-- The start test of a BOOKED session (R115). One of required time 0 completes whatever the lines are, also where the start-up reload creates it
(DESIGN CHOICE beside R129, log 47). -/
def State.startTest (s : State) (b : Bay) : State :=
  let x := s.session b
  if x.state != .booked then s
  else if x.required == 0 then (if s.startReached b then s.completeSession b (s.afterStart b) else s)
  else if s.startReached b && s.isAssigned b && s.occupied b && s.plugged b then
    (s.setSession b { x with state := .waiting, late := s.afterStart b }).askSupply b
  else s

/-- The completion test of a WAITING session whose required time has come to 0 (R113, R115). -/
def State.zeroTest (s : State) (b : Bay) : State :=
  if (s.session b).state == .waiting && s.zeroPasses b then s.completeSession b (s.afterStart b) else s

/-- Required time and start time of a session for a ready-by time (R113). -/
def State.withTimes (s : State) (b : Bay) (x : Session) : Session :=
  { x with required := s.heatMinutes b, start := x.readyBy.map fun t => minusMinutes t (s.heatMinutes b) }

/-- The required time follows band, class or ready-by while the session is BOOKED or WAITING and not frozen (R113). -/
def State.recompute (s : State) (b : Bay) : State :=
  let x := s.session b
  if !x.frozen && (x.state == .booked || x.state == .waiting) then
    ((s.setSession b (s.withTimes b x)).startTest b).zeroTest b
  else s

/-- A session created for the plan copy's ready-by time, or one in NONE (R114). -/
def State.newSession (s : State) (b : Bay) (ready : Option Nat) : State :=
  match ready with
  | some t => (s.setSession b (s.withTimes b { state := .booked, readyBy := some t })).startTest b
  | none => s.setSession b {}

/-! ### Heating (R117, R118) -/

/-- The closed notice to the HEAT claimant: pilot ON, HEATING, and the count runs (R87, R118). -/
def State.enterHeating (s : State) (b : Bay) : State :=
  let x := s.session b
  if x.state == .waiting && x.phase == .granted then
    let s1 := s.setCtr b { s.ctr b with pilot := true }
    let s2 := s1.setSession b { x with state := .heating, frozen := true, since := some s.timeBase, shown := x.saved / minute }
    s2.raise .heatStarted (some b) (x.saved / minute + flagAt x.frozen 8)
  else s

/-- A grant finds the session waiting for it (R117). -/
def Session.awaitsGrant (x : Session) : Bool :=
  (x.state == .waiting && x.phase == .listed) || (x.state == .paused && x.pauseShed && !x.pausePlug)

/-- A grant is handed to the Heat Controller, which claims the contactor (R117). -/
def State.heatGranted (s : State) (b : Bay) : State :=
  let x := s.session b
  if x.awaitsGrant then
    let s1 := s.setSession b { x with state := .waiting, pauseShed := false, phase := .granted }
    let s2 := s1.claimCtr b .heat
    match s1.claimAnswer b .heat with
    | .closed => s2.enterHeating b
    | .joined => s2
    | .refusedNoPlug =>
      let s3 := s2.returnComponent b .heat
      s3.setSession b { s3.session b with state := .paused, pausePlug := true, phase := .noEntry }
    | .refusedWelded =>
      let s3 := s2.returnComponent b .heat
      s3.setSession b { s3.session b with phase := .noEntry }
  else s.returnComponent b .heat

/-- A request or an entry of the session was refused by a bar or a weld (R116). -/
def State.heatRefused (s : State) (b : Bay) : State :=
  if (s.session b).phase == .listed then s.setSession b { s.session b with phase := .noEntry } else s

/-! ### Pause and resume (R121 to R123) -/

/-- The HEAT component of the session was shed (R121). -/
def State.heatShed (s : State) (b : Bay) : State :=
  let x := s.session b
  if x.state == .heating || (x.state == .waiting && x.phase == .granted) then
    let s1 := (s.stopCount b).releaseCtr b .heat
    (s1.setSession b { s1.session b with state := .paused, pauseShed := true, phase := .listed }).completeIfFull b
  else s.withdraw b .heat

/-- The plug went OUT; the Bay Unit has already emptied the claimant set (R122). -/
def State.heatPlugOut (s : State) (b : Bay) : State :=
  let x := s.session b
  let pause := fun (u : State) =>
    (u.setSession b { u.session b with state := .paused, pausePlug := true, phase := .noEntry }).completeIfFull b
  match x.state with
  | .heating => pause ((s.stopCount b).returnComponent b .heat)
  | .waiting => pause (s.dropSupply b)
  | .paused => if x.pausePlug then s else pause (s.dropSupply b)
  | .booked | .none | .complete | .ended | .failed => s

/-- The plug went IN: the start test, or PLUG_OUT leaves the reasons (R115, R123). -/
def State.heatPlugIn (s : State) (b : Bay) : State :=
  let x := s.session b
  if x.state == .paused && x.pausePlug then
    (s.setSession b { x with pausePlug := false, state := if x.pauseShed then .paused else .waiting }).askSupply b
  else s.startTest b

/-! ### Failure and ending (R124, R125) -/

/-- A session enters FAILED or ENDED from a live state (R124, R125); its supply has been given up. -/
def State.closeSession (s : State) (b : Bay) (st : SState) (why : HeatEnd) : State :=
  let s1 := s.setSession b { s.session b with state := st, phase := .noEntry, ending := some why, pauseShed := false, pausePlug := false }
  s1.raise .heatEnded (some b) (s.accumulated b / minute + why.code * 256)

/-- The HEAT claimant is told its claim is lost with NO_CLOSE or WELDED (R124); its component goes back before HEAT_ENDED (DESIGN CHOICE, log 45). -/
def State.heatLost (s : State) (b : Bay) (why : HeatEnd) : State :=
  let x := s.session b
  if x.state == .heating || (x.state == .waiting && x.phase == .granted) then
    ((s.stopCount b).returnComponent b .heat).closeSession b .failed why
  else s

/-- End a live session (R125); what it holds goes back before HEAT_ENDED (DESIGN CHOICE, log 45). -/
def State.endSession (s : State) (b : Bay) (why : HeatEnd) : State :=
  if (s.session b).state.live then ((s.stopCount b).dropSupply b).closeSession b .ended why else s

/-! ### Amendments (R126) -/

/-- An amendment with the ready-by time before it and after it (R126). -/
def State.heatAmend (s : State) (b : Bay) (old new : Option Nat) : State :=
  let x := s.session b
  if old == new then s
  else match old, new with
    | some _, none => if x.state.live then s.endSession b .bookingRemoved else s.newSession b none
    | none, _ => s.newSession b new
    | some _, some _ =>
      if !x.state.live then s.newSession b new
      else (s.setSession b { x with readyBy := new, lateReported := false }).recompute b

/-! ### Minute events (R115, R116, R120) -/

/-- The accumulated time a minute event finds: a count that still runs has not been taken to the required time, so it is one step short of it at
least (R127). -/
def State.countFound (s : State) (b : Bay) : Nat :=
  match (s.session b).since with
  | some _ => min (s.accumulated b) ((s.session b).requiredUnits - 1)
  | none => s.accumulated b

/-- The heat time still to run, in minutes rounded up (R120). -/
def State.heatLeft (s : State) (b : Bay) : Nat := ((s.session b).requiredUnits - s.countFound b + (minute - 1)) / minute

/-- The session needs supply and has no entry (R116). A WAITING session without heat to give (R115) asks too, until its ready-by time is reached
(DESIGN CHOICE, log 38). -/
def Session.asksAgain (x : Session) : Bool :=
  x.phase == .noEntry && (x.state == .waiting || (x.state == .paused && x.pauseShed && !x.pausePlug))

/-- HEAT_LATE for a live session whose ready-by time has been reached (R120). -/
def State.lateTest (s : State) (b : Bay) : State :=
  let x := s.session b
  if x.state.live && !x.lateReported && x.readyBy.any (fun t => s.reached t) then
    (s.setSession b { x with lateReported := true }).raise .heatLate (some b) (s.heatLeft b)
  else s

/-- The repeated request of a session that was refused (R116). -/
def State.askAgain (s : State) (b : Bay) : State := if (s.session b).asksAgain then s.askSupply b else s

/-- What a minute event does to one session: completion without heat, a repeated request, the start test, lateness (log 17, log 25). That a session
completes before its lateness is tested (R115, R120) is the model's order (DESIGN CHOICE, log 46). -/
def State.heatMinute (s : State) (b : Bay) : State := (((s.zeroTest b).askAgain b).startTest b).lateTest b

end Sys2Proof.Machine
end

