-- ==== Sys2Proof/Machine/Link.lean ====
section
/-! DEFINITION. The Link Engine: sending a request, repeating it, opening the link (R142 to R144). -/

namespace Sys2Proof.Machine

open Sys2Proof.Config

/-- Send a new request on a held link channel: the sequence advances, the first attempt is sent, and the holder's link used mark is set (R142). -/
def State.send (s : State) (ch : LinkIx) (r : Request) (single : Bool) : State :=
  let c := s.link ch
  let s1 := s.setLink ch { c with seq := (c.seq + 1) % 16, exch := some ⟨r, 1, .sending, single, s.timeBase⟩ }
  match c.holder with
  | some (b, act) => s1.setAct b act { s1.act b act with linkUsed := true }
  | none => s1

/-- The next attempt of the exchange under way, with the same kind, sequence and payload (R142, R143). -/
def State.nextAttempt (s : State) (ch : LinkIx) : State :=
  match (s.link ch).exch with
  | some x => s.setLink ch { s.link ch with exch := some { x with attempt := x.attempt + 1, state := .sending } }
  | none => s

/-- Open the link: the wake timer starts and WAKE is sent (R144). -/
def State.openLink (s : State) (ch : LinkIx) : State :=
  match (s.link ch).holder with
  | some (b, act) =>
    (s.setLink ch { s.link ch with wakeTimer := some (s.timeBase + (s.act b act).wake * second) }).send ch .wake false
  | none => s

/-- End what runs on a link channel without an outcome: exchange, wake timer and wake pause (R148, R149). -/
def State.quietLink (s : State) (ch : LinkIx) : State :=
  s.setLink ch { s.link ch with exch := none, wakeTimer := none, pause := none }

/-- Send a request for an activity on the link channel it holds (R142). -/
def State.sendFor (s : State) (b : Bay) (act : Activity) (r : Request) (single : Bool) : State :=
  match s.linkOf b act with
  | some ch => s.send ch r single
  | none => s

/-- The exchange under way for an activity. -/
def State.exchOf (s : State) (b : Bay) (act : Activity) : Option Exchange :=
  match s.linkOf b act with
  | some ch => (s.link ch).exch
  | none => none

end Sys2Proof.Machine
end

