-- ==== Sys2Proof/Machine/FaultTable.lean ====
section
/-! DEFINITION. Fault Reading: the Fault Table, merging, completion and the recorded end of a read (R151 to R164). -/

namespace Sys2Proof.Machine

/-! ### Ranks and records (R152, R157) -/

/-- The rank of a state and a severity, 1 the highest (R152). -/
def rankOf (active : Bool) : Severity → Nat
  | .blocking => if active then 1 else 4
  | .advise => if active then 2 else 5
  | .info => if active then 3 else 6

def Slot.rank (x : Slot) : Nat := rankOf x.active x.severity

/-- A judged record of a page (R157). -/
structure FaultRecord where
  code : Nat
  severity : Severity
  active : Bool
  count : Nat
  deriving DecidableEq, Repr

def FaultRecord.rank (r : FaultRecord) : Nat := rankOf r.active r.severity

/-- The severity of a record byte (section 12.6). -/
def severityOf : Nat → Option Severity
  | 1 => some .info
  | 2 => some .advise
  | 3 => some .blocking
  | _ => none

/-- The state of a record byte: true for ACTIVE (section 12.6). -/
def activeOf : Nat → Option Bool
  | 1 => some true
  | 2 => some false
  | _ => none

/-- Judge one record: none if it is not acceptable (R157, R214). -/
def RawRecord.judge (r : RawRecord) : Option FaultRecord :=
  match severityOf r.severity, activeOf r.state with
  | some sev, some act => if within r.code 1 65535 && within r.count 1 255 then some ⟨r.code, sev, act, r.count⟩ else none
  | _, _ => none

/-- Judge all the records of a page before any is merged (R157). -/
def judgePage : List RawRecord → Option (List FaultRecord)
  | [] => some []
  | r :: rest =>
    match r.judge, judgePage rest with
    | some x, some xs => some (x :: xs)
    | _, _ => none

/-! ### The table (R151, R162) -/

/-- The occupied slots. -/
def FaultTable.occupied (t : FaultTable) : List Slot := t.slots.toList.filterMap id

/-- Number of occupied slots (R162). -/
def FaultTable.count (t : FaultTable) : Nat := t.occupied.length

/-- The highest severity among ACTIVE slots (R162). -/
def FaultTable.worst (t : FaultTable) : Option Severity :=
  let has := fun v => t.occupied.any fun x => x.active && x.severity == v
  if has .blocking then some .blocking else if has .advise then some .advise else if has .info then some .info else none

/-- A recorded time to the minute (section 12.1). -/
def timeToMinute (t : Option TimeOfDay) : Option Nat := t.map TimeOfDay.minutes

/-- What the fault block carries of a table (R153): code, severity, state, count and time to the minute of each slot. -/
def FaultTable.shown (t : FaultTable) : List (Option (Nat × Severity × Bool × Nat × Option Nat)) :=
  t.slots.toList.map fun o => o.map fun x => (x.code, x.severity, x.active, x.count, timeToMinute x.time)

/-- The table changes: the fault block is marked, worst severity and count follow, and the change is handed to Clearance
(R153, R158, R162, R188). -/
def State.setTable (s : State) (b : Bay) (t : FaultTable) : State :=
  let changed := (s.table b).shown != t.shown
  let s1 := ({ s with tables := vset s.tables b t }.markBlock b changed).askVetIf b changed
  s1.setSummary b { s1.summary b with worst := t.worst, count := t.count }

/-- The slot numbers from the pointer upward, wrapping from 7 to 0 (R158). -/
def FaultTable.scan (t : FaultTable) : List (Fin 8) := (List.finRange 8).map fun k => t.pointer + k

/-- The first slot in scan order that meets a test. -/
def FaultTable.find (t : FaultTable) (p : Option Slot → Bool) : Option (Fin 8) := t.scan.find? fun k => p (vget t.slots k)

/-- Fill or replace a slot; the pointer moves to the slot after it (R158). -/
def FaultTable.put (t : FaultTable) (k : Fin 8) (x : Slot) : FaultTable := { slots := vset t.slots k (some x), pointer := k + 1 }

/-- The slot a record makes (R158). -/
def FaultRecord.slot (r : FaultRecord) (time : Option TimeOfDay) : Slot := ⟨r.code, r.severity, r.active, r.count, time, true⟩

/-- The largest rank number among the occupied slots: the rank of the lowest-ranked slots (R152). -/
def FaultTable.lowest (t : FaultTable) : Nat := (t.occupied.map Slot.rank).foldl max 0

/-- A slot of the lowest rank; in the equal-rank case only one whose seen mark is clear (R158). -/
def FaultTable.replaceable (t : FaultTable) (r : FaultRecord) : Option Slot → Bool
  | none => false
  | some x => x.rank == t.lowest && (decide (r.rank < t.lowest) || (r.rank == t.lowest && !x.seen))

/-- Merge one record; true when the read has lost a record the coach reported (R158). -/
def FaultTable.merge (t : FaultTable) (r : FaultRecord) (time : Option TimeOfDay) : FaultTable × Bool :=
  match t.find (fun o => o.any fun x => x.code == r.code) with
  | some k => ({ t with slots := vset t.slots k (some (r.slot time)) }, false)
  | none =>
    match t.find (fun o => o.isNone) with
    | some k => (t.put k (r.slot time), false)
    | none =>
      match t.find (t.replaceable r) with
      | some k => (t.put k (r.slot time), (vget t.slots k).any fun x => x.seen)
      | none => (t, true)

/-- Clear every seen mark (R155). -/
def FaultTable.unmark (t : FaultTable) : FaultTable := { t with slots := t.slots.map fun o => o.map fun x => { x with seen := false } }

/-- Keep the slots that meet a test; the pointer stays (R159, R160). -/
def FaultTable.keep (t : FaultTable) (p : Slot → Bool) : FaultTable := { t with slots := t.slots.map fun o => o.filter p }

/-! ### Merging and completion of a read (R155, R158 to R160) -/

/-- Merge one record into a bay's table, with the overflow and drop marks (R158). -/
def State.mergeRecord (s : State) (b : Bay) (r : FaultRecord) : State :=
  let m := (s.table b).merge r s.clockTime
  let s1 := s.setTable b m.1
  if m.2 then (s1.setSummary b { s1.summary b with overflow := true }).setRead b { vget s1.reads b with drop := true } else s1

/-- Merge the records of a page in their order in the reply (R156). -/
def State.mergePage (s : State) (b : Bay) (rs : List FaultRecord) : State := rs.foldl (fun u r => u.mergeRecord b r) s

/-- Start the pages of a read: coach fault total, seen marks and drop mark cleared, page 0 (R155). -/
def State.startPages (s : State) (b : Bay) (total : Nat) : State :=
  let s1 := s.setSummary b { s.summary b with total := some total }
  { s1 with tables := vset s1.tables b (s1.table b).unmark }.setRead b {}

/-- The table and the summary marks at a completion (R159, R160, R162). -/
def State.completeRead (s : State) (b : Bay) (erased refused : Bool) : State :=
  let t := (s.table b).keep fun x => x.seen && !(erased && !x.active)
  let s1 := s.setTable b t
  s1.setSummary b { s1.summary b with completeTime := s1.clockTime, overflow := (vget s1.reads b).drop, eraseRefused := refused }

/-- The detail of FAULT_RESULT (section 12.4). -/
def faultDetail (code : EndCode) (v : Variant) (m : FaultSummary) : Nat :=
  code.code + v.code * 16 + optCode Severity.code m.worst * 64 + flagAt m.overflow 8

/-- Record the end of a fault read; a read of the previous assignment records nothing (R161, R163, log 28). -/
def State.recordFault (s : State) (b : Bay) (code : EndCode) : State :=
  let a := s.act b .fault
  if a.previous then s
  else
    let s1 := s.setSummary b { s.summary b with outcome := some code, variant := some a.variant, outcomeTime := s.clockTime }
    (s1.raise .faultResult (some b) (faultDetail code a.variant (s1.summary b))).askVet b

/-- The table and the summary are emptied; the pointer keeps its place (R70, R151, R162). -/
def State.emptyFaults (s : State) (b : Bay) : State :=
  (s.setTable b { slots := Vector.replicate 8 none, pointer := (s.table b).pointer }).setSummary b {}

/-- A fresh complete read (R164). -/
def State.freshRead (s : State) (b : Bay) : Bool := s.isFresh (s.summary b).completeTime s.settings.faultFresh

/-- The table holds an ACTIVE BLOCKING fault (R164, R185). -/
def State.blockingFault (s : State) (b : Bay) : Bool := (s.table b).worst == some .blocking

end Sys2Proof.Machine
end

