-- ==== Sys2Proof/Machine/LampRecord.lean ====
section
/-! DEFINITION. Lamp Checking: the lamp result, findings, judgement, the recorded end and the giving up of supply (R166, R167, R175 to R180). -/

namespace Sys2Proof.Machine

/-- A group with none of the three findings is clean (R175). -/
def Finding.clean (f : Finding) : Bool := !f.dark && !f.cross && !f.stuck

/-- DARK and CROSS of a group at its on-window's expiry (R175). -/
def Layout.findingOn (l : Layout) (g : Group) (litNow seenLit : Set8) : Finding :=
  let e := vget l.expected g
  { dark := if l.flashing.getLsbD g.val then e &&& ~~~ seenLit != 0 else e &&& ~~~ litNow != 0,
    cross := seenLit &&& ~~~ e != 0 }

/-- The finding recorded so far of a group, clean if none. -/
def LampWork.findingOf (w : LampWork) (g : Group) : Finding := (vget w.findings g).getD {}

/-- A critical group has a finding among the findings so far (R176, R179; log 32). -/
def LampWork.criticalFinding (w : LampWork) : Bool :=
  match w.layout with
  | some l => (List.finRange 8).any fun g => l.critical.getLsbD g.val && !(w.findingOf g).clean
  | none => false

/-- Some group has a finding (R176). -/
def LampWork.anyFinding (w : LampWork) : Bool := (List.finRange 8).any fun g => !(w.findingOf g).clean

/-- The judged result (R176). -/
def LampWork.judge (w : LampWork) : Judged :=
  if w.criticalFinding then .fail else if w.anyFinding then .passWithNotes else .pass

def Judged.endCode : Judged → EndCode
  | .pass => .pass
  | .passWithNotes => .passWithNotes
  | .fail => .fail

/-- The findings as the result shows them: "not present" for groups outside the present set (R179). -/
def LampWork.resultFindings (w : LampWork) : Vector (Option Finding) 8 :=
  Vector.ofFn fun g => match w.layout with
    | some l => if l.present.getLsbD g.val then some (w.findingOf g) else none
    | none => none

/-- The first present group at or after a number, in group order (R172, R174). -/
def Layout.nextGroup (l : Layout) (from' : Nat) : Option Group :=
  (List.finRange 8).find? fun g => decide (from' ≤ g.val) && l.present.getLsbD g.val

/-- The detail of LAMP_RESULT (section 12.4). -/
def lampDetail (code : EndCode) (origin : Option Origin) (w : LampWork) : Nat :=
  code.code + optCode Origin.code origin * 16 + flagAt w.criticalFinding 6 + w.judged * 256

/-- The lamp result after an end that is not judged (R167). -/
def LampResult.ended (r : LampResult) (code : EndCode) (origin : Option Origin) (t : Option TimeOfDay) : LampResult :=
  { r with outcome := some code, origin := origin, outcomeTime := t }

/-- Record the end of a lamp check; a check of the previous assignment records nothing (R179, log 28). -/
def State.recordLamp (s : State) (b : Bay) (code : EndCode) : State :=
  let a := s.act b .lamp
  if a.previous then s
  else
    let s1 := s.setLampResult b ((s.lampResult b).ended code a.origin s.clockTime)
    (s1.raise .lampResult (some b) (lampDetail code a.origin (s.lampWorkOf b))).askVet b

/-- Record the judgement beside the end, in the same event (R167, R176, R179). -/
def State.recordJudgement (s : State) (b : Bay) (j : Judged) : State :=
  s.setLampResult b { s.lampResult b with judged := some j, judgeTime := s.clockTime, findings := some (s.lampWorkOf b).resultFindings }

/-- The lamp check gives up its supply: LAMP leaves the claimant set and the component goes back (R176, R178). -/
def State.lampGiveUp (s : State) (b : Bay) : State :=
  let s1 := (s.releaseCtr b .lamp).returnComponent b .lamp
  s1.setLampWork b { s1.lampWorkOf b with supplyOn := false }

/-- The lamp result is emptied (R70, R167). -/
def State.emptyLampResult (s : State) (b : Bay) : State := s.setLampResult b {}

/-- A fresh lamp result (R180). -/
def State.freshLamp (s : State) (b : Bay) : Bool := s.isFresh (s.lampResult b).judgeTime s.settings.lampFresh

end Sys2Proof.Machine
end

