-- ==== Sys2Proof/Machine/Pool.lean ====
section
/-! DEFINITION. The Channel Pool's grants, releases, closing step, hand-over and stops (R135, R136, R146 to R149, R178). -/

namespace Sys2Proof.Machine

open Sys2Proof.Config

/-! ### Grants (R136, R170) -/

/-- The link rate code of the class row now committed that the plan copy names (R136). -/
def State.classRate (s : State) (b : Bay) : Nat := match s.classOf b with | some c => c.rate | none => 0

/-- The wake time of that class row (R136). -/
def State.classWake (s : State) (b : Bay) : Nat := match s.classOf b with | some c => c.wake | none => 0

/-- The lamp layout of that class row (R170). -/
def State.layoutOf (s : State) (b : Bay) : Option Layout :=
  (s.classOf b).map fun c => ⟨c.present, c.critical, c.flashing, c.expected⟩

/-- A lamp check goes on from POWER to LINK and opens the link (R170, R172). -/
def State.lampToLink (s : State) (b : Bay) : State :=
  match s.linkOf b .lamp with
  | some ch => (s.setLampWork b { s.lampWorkOf b with step := some .link }).openLink ch
  | none => s

/-- The joint grant at the Lamp Checker: layout taken, POWER, and LINK at once with the supply on (R170). -/
def State.lampRunning (s : State) (b : Bay) : State :=
  let on := (s.lampWorkOf b).supplyOn
  let s1 := s.setLampWork b { step := some .power, supplyOn := on, layout := s.layoutOf b }
  if on then s1.lampToLink b else s1

/-- A lamp channel is switched to a bay's head; its lit-now set takes the levels present (R130, R171). -/
def State.takeLampChannel (s : State) (b : Bay) : State :=
  match s.freeLamp with
  | some lc => s.setLampCh lc { holder := some b, litNow := vget s.heads b }
  | none => s

/-- Grant an entry a link channel, and a lamp channel for a lamp check, and hand the grant to the owner (R136). -/
def State.grantChannels (s : State) (b : Bay) (act : Activity) (ch : LinkIx) : State :=
  let s1 := s.removeChan b act
  let s2 := s1.setLink ch { (s1.link ch) with holder := some (b, act), rate := s1.classRate b, exch := none, wakeTimer := none, pause := none,
                                                 endedAt := none }
  let s3 := match act with
    | .lamp => s2.takeLampChannel b
    | .fault => s2
  let s4 := s3.setAct b act { s3.act b act with
    stage := .running, linkUsed := false, stop := .none, ending := none, rate := s3.classRate b, wake := s3.classWake b }
  match act with
  | .lamp => s4.lampRunning b
  | .fault => s4.openLink ch

/-- Test one entry of an examination against the channels as they stand (R135). -/
def State.testEntry (s : State) (e : CEntry) : State :=
  if (s.chanEntry e.bay e.act).isNone || s.holdsLink e.bay then s
  else match s.freeLink, e.act with
    | some ch, .fault => if s.reservation.isSome then s else s.grantChannels e.bay .fault ch
    | some ch, .lamp => if s.freeLamp.isSome then s.grantChannels e.bay .lamp ch else s
    | none, _ => s

/-- Examine the Channel Waiting List in order (R135). -/
def State.examineChannels (s : State) : State := s.poolList.foldl State.testEntry s

/-! ### Releases (R146) -/

/-- Free a bay's lamp channel; the check's working state is cleared with it (R146, R166). -/
def State.freeLampChannel (s : State) (b : Bay) : State :=
  let s1 := match s.lampChOf b with
    | some lc => s.setLampCh lc {}
    | none => s
  s1.setLampWork b {}

/-- Free the link channel an activity holds; its sequence carries on (R142, R146). -/
def State.freeLinkChannel (s : State) (b : Bay) (act : Activity) : State :=
  match s.linkOf b act with
  | some ch => s.setLink ch { seq := (s.link ch).seq }
  | none => s

/-- Release an activity's channels: they become FREE, the activity returns to NONE, the list is examined (R146). -/
def State.releaseChannels (s : State) (b : Bay) (act : Activity) : State :=
  let s1 := s.freeLinkChannel b act
  let s2 := match act with
    | .lamp => s1.freeLampChannel b
    | .fault => s1
  (s2.setAct b act {}).askPool

/-! ### Ends of waiting activities (R133, R138, R178) -/

/-- The owner records an end: the Lamp Checker gives up its supply first (R163, R178, R179), so that BUDGET_REACHED is stamped before LAMP_RESULT
(DESIGN CHOICE, log 45). -/
def State.ownerEnds (s : State) (b : Bay) (act : Activity) (code : EndCode) : State :=
  match act with
  | .lamp => (s.lampGiveUp b).recordLamp b code
  | .fault => s.recordFault b code

/-- A waiting activity ends at once with a reason: its entries leave the lists, and the owner records its end (R133, R138, R178). -/
def State.endWaiting (s : State) (b : Bay) (act : Activity) (code : EndCode) : State :=
  let s1 := s.removeChan b act
  match act with
  | .lamp => ((((s1.withdraw b .lamp).ownerEnds b .lamp code).setLampWork b {}).setAct b .lamp {})
  | .fault => (s1.ownerEnds b .fault code).setAct b .fault {}

/-! ### The closing step (R147) -/

/-- A lamp check leaves its step, its window and its current group; the group counted lit stays (R166, R173). -/
def State.leaveStep (s : State) (b : Bay) (act : Activity) : State :=
  match act with
  | .lamp => s.setLampWork b { s.lampWorkOf b with step := none, group := none, window := none }
  | .fault => s

/-- The other activity of a bay. -/
def otherActivity : Activity → Activity
  | .lamp => .fault
  | .fault => .lamp

/-- The list holds an entry of the same bay that the closing link channel, with the channels then free, can serve (R147). -/
def State.canHandOver (s : State) (b : Bay) (closing : Activity) : Bool :=
  (s.chanEntry b (otherActivity closing)).isSome && (otherActivity closing == .fault || s.freeLamp.isSome)

/-- The hand-over: the other activity takes the link channel without its becoming FREE; the closing one ends without SLEEP (R147). -/
def State.handOver (s : State) (b : Bay) (closing : Activity) (ch : LinkIx) : State :=
  let s1 := match closing with
    | .lamp => s.freeLampChannel b
    | .fault => s
  ((s1.setAct b closing {}).grantChannels b (otherActivity closing) ch).askPool

/-- An outcome after which the link is not usable (R147). -/
def EndCode.linkDead : EndCode → Bool
  | .linkFailed | .noWake => true
  | .pass | .passWithNotes | .fail | .complete | .noSupply | .noChannel | .ambient | .identity | .plugOut | .empty | .cancelled
  | .refused | .badRecord => false

/-- An activity reaches its closing step with an outcome: recorded, CLOSING, then released, handed over or put to sleep (R147). -/
def State.closingStep (s : State) (b : Bay) (act : Activity) (code : EndCode) : State :=
  let s1 := (s.ownerEnds b act code).leaveStep b act
  let a := s1.act b act
  let s2 := s1.setAct b act { a with stage := .closing, ending := some code }
  match s2.linkOf b act with
  | none => s2
  | some ch =>
    let s3 := s2.quietLink ch
    if !a.linkUsed || code.linkDead then s3.releaseChannels b act
    else if s3.canHandOver b act then s3.handOver b act ch
    else s3.send ch .sleep false

/-! ### Stops (R148, R149) -/

/-- Step 3 of an orderly stop: the channels are released, and the activity ends with CANCELLED (R148, R178). -/
def State.orderlyRelease (s : State) (b : Bay) (act : Activity) : State :=
  (s.ownerEnds b act .cancelled).releaseChannels b act

/-- Step 2 of an orderly stop, after the exchange under way: a LAMP off for a group counted lit, then SLEEP, as single attempts (R148). -/
def State.orderlyNext (s : State) (b : Bay) (act : Activity) (failed : Bool) : State :=
  if failed || !(s.act b act).linkUsed then s.orderlyRelease b act
  else match act, (s.lampWorkOf b).lit with
    | .lamp, some g => s.sendFor b act (.lamp g false) true
    | .lamp, none => s.sendFor b act .sleep true
    | .fault, _ => s.sendFor b act .sleep true

/-- A LAMP off exchange ends: its group is no longer counted lit (R173, R177). -/
def State.offEnded (s : State) (b : Bay) : Request → State
  | .lamp _ false => s.setLampWork b { s.lampWorkOf b with lit := none }
  | .lamp _ true | .wake | .ident | .faultPage _ | .eraseStored | .sleep => s

/-- The exchange was asked for at this instant, in the event that ended the one before it (R148, R165; log 41). -/
def LinkChannel.justAsked (c : LinkChannel) (x : Exchange) (now : Nat) : Bool :=
  x.state == .sending && x.attempt == 1 && x.began == now && c.endedAt == some now

/-- A stop at the moment of a reply finds no exchange under way: the request that the reply led to is not asked, and the sequence does not
advance for it (R148, R165; log 41). -/
def State.unask (s : State) (ch : LinkIx) : State := s.setLink ch { s.link ch with exch := none, seq := ((s.link ch).seq + 15) % 16 }

/-- What an orderly stop does to the exchange under way on the activity's link channel (R148 step 1): one being sent or waiting for its reply
runs on; one just asked for is not sent; a BUSY wait ends it at once. -/
def State.stopExchange (s : State) (b : Bay) (act : Activity) (ch : LinkIx) (x : Exchange) : State :=
  if (s.link ch).justAsked x s.timeBase then (s.unask ch).orderlyNext b act false
  else match x.state with
    | .sending | .waiting _ _ => s
    | .busy _ => ((s.quietLink ch).offEnded b x.request).orderlyNext b act false

/-- The wake timer and the wake pause of a link channel are off. -/
def State.endWake (s : State) (ch : LinkIx) : State := s.setLink ch { s.link ch with wakeTimer := none, pause := none }

/-- Give a running activity an orderly stop (R148). -/
def State.stopOrderly (s : State) (b : Bay) (act : Activity) : State :=
  let s1 := (s.setAct b act { s.act b act with stage := .closing, stop := .orderly, ending := some .cancelled }).leaveStep b act
  match s1.linkOf b act with
  | none => s1
  | some ch =>
    match (s1.link ch).exch with
    | some x => (s1.endWake ch).stopExchange b act ch x
    | none => (s1.endWake ch).orderlyNext b act false

/-- An orderly stop by the activity's stage (R148); `previous`: the commit of a new assignment or withdrawal gives it (R70, log 28). -/
def State.orderlyStop (s : State) (b : Bay) (act : Activity) (previous : Bool) : State :=
  let a := s.act b act
  let s1 := if previous && a.stage != .none then s.setAct b act { a with previous := true } else s
  match a.stage with
  | .none | .closing => s1
  | .supply | .queued => s1.endWaiting b act .cancelled
  | .running => s1.stopOrderly b act

/-- Drop the link of an activity that ends with a reason: at once, or when the frame being sent has completed (R131, R149, log 20). -/
def State.dropLink (s : State) (b : Bay) (act : Activity) (why : Option EndCode) : State :=
  match s.linkOf b act with
  | none => s
  | some ch =>
    if (s.link ch).exch.any (fun x => x.state == .sending) then
      (s.setLink ch { s.link ch with wakeTimer := none, pause := none }).setAct b act
        { s.act b act with stage := .closing, stop := .immediate, ending := why }
    else s.releaseChannels b act

/-- An immediate stop by the activity's stage (R149). -/
def State.immediateStop (s : State) (b : Bay) (act : Activity) (code : EndCode) : State :=
  let a := s.act b act
  match a.stage, a.stop with
  | .none, _ => s
  | .supply, _ | .queued, _ => s.endWaiting b act code
  | .running, _ | .closing, .orderly => ((s.ownerEnds b act code).leaveStep b act).dropLink b act (some code)
  | .closing, .none => s.dropLink b act a.ending
  | .closing, .immediate => s

end Sys2Proof.Machine
end

