-- ==== Sys2Proof/Machine/Procedure.lean ====
section
/-! DEFINITION. What an activity does with the outcome of an exchange: wake procedure, IDENT, fault pages, erase, lamp exchanges,
closing exchanges, loss of supply (R143 to R148, R155, R156, R160, R172 to R177). -/

namespace Sys2Proof.Machine

open Sys2Proof.Config

/-- How an exchange ended (R143): OK with its reply, REFUSED, STARTING, failed, or, sent as one attempt, without an answer. -/
inductive ExchEnd
  | ok (r : Reply)
  | refused
  | starting
  | failed
  | unanswered
  deriving DecidableEq, Repr

/-! ### Opening the link (R144, R145) -/

/-- STARTING with the wake timer running: a pause until 1 s after the first attempt began, or a new WAKE at once (R144). -/
def State.wakeAgain (s : State) (ch : LinkIx) (began : Nat) : State :=
  if began + second ≤ s.timeBase then s.send ch .wake false
  else s.setLink ch { s.link ch with pause := some (began + second) }

/-- The outcome of a WAKE exchange (R144). -/
def State.wakeEnded (s : State) (b : Bay) (act : Activity) (ch : LinkIx) (began : Nat) : ExchEnd → State
  | .ok _ => (s.setLink ch { s.link ch with wakeTimer := none }).send ch .ident false
  | .starting => if (s.link ch).wakeTimer.isSome then s.wakeAgain ch began else s.closingStep b act .noWake
  | .refused => s.closingStep b act .noWake
  | .failed | .unanswered => s.closingStep b act .linkFailed

/-- The Bay Unit sets the coach-seen fields, unless the activity belongs to the previous assignment (R89). -/
def State.setSeen (s : State) (b : Bay) (act : Activity) (id code : Nat) : State :=
  if (s.act b act).previous then s
  else (s.setBay b { s.bay b with seen := some ⟨id, code⟩ }).askVet b

/-- The IDENT reply agrees with the plan copy and its class row (R145, R185). -/
def State.identityMatches (s : State) (b : Bay) (id code : Nat) : Bool :=
  match (s.bay b).plan, s.classOf b with
  | some p, some c => p.coachId == id && c.code == code
  | _, _ => false

/-- A lamp check enters BASELINE (R172). -/
def State.enterBaseline (s : State) (b : Bay) : State :=
  s.setLampWork b { s.lampWorkOf b with step := some .baseline, window := some (.baseline, s.timeBase + baselineTime) }

/-- The activity goes on after a passed IDENT check with its own procedure (R145, R155, R172). -/
def State.identPassed (s : State) (b : Bay) (act : Activity) (ch : LinkIx) (total : Nat) : State :=
  match act with
  | .fault => (s.startPages b total).send ch (.faultPage 0) false
  | .lamp => s.enterBaseline b

/-- The outcome of an IDENT exchange (R145). -/
def State.identEnded (s : State) (b : Bay) (act : Activity) (ch : LinkIx) : ExchEnd → State
  | .ok (.okIdent id code total) =>
    let s1 := s.setSeen b act id code
    if s1.identityMatches b id code then s1.identPassed b act ch total else s1.closingStep b act .identity
  | .ok _ | .refused | .starting => s.closingStep b act .identity
  | .failed | .unanswered => s.closingStep b act .linkFailed

/-! ### Fault pages and erase (R156, R160) -/

/-- The page test after a merge (R156). -/
def State.pageTest (s : State) (b : Bay) (ch : LinkIx) (n : Nat) (more : Bool) : State :=
  if more && n != 15 then
    (s.setRead b { vget s.reads b with page := n + 1 }).send ch (.faultPage (n + 1)) false
  else match (s.act b .fault).variant with
    | .read => (s.completeRead b false false).closingStep b .fault .complete
    | .readErase => s.send ch .eraseStored false

/-- The outcome of a FAULT_PAGE exchange (R156, R157). -/
def State.pageEnded (s : State) (b : Bay) (ch : LinkIx) (n : Nat) : ExchEnd → State
  | .ok (.okPage more raws) =>
    match judgePage raws with
    | some rs => (s.mergePage b rs).pageTest b ch n more
    | none => s.closingStep b .fault .badRecord
  | .ok _ | .refused | .starting => s.closingStep b .fault .refused
  | .failed | .unanswered => s.closingStep b .fault .linkFailed

/-- The outcome of an ERASE_STORED exchange (R160). -/
def State.eraseEnded (s : State) (b : Bay) : ExchEnd → State
  | .ok _ => (s.completeRead b true false).closingStep b .fault .complete
  | .refused | .starting => (s.completeRead b false true).closingStep b .fault .complete
  | .failed | .unanswered => s.closingStep b .fault .linkFailed

/-! ### Lamp groups (R173, R174, R176) -/

/-- Enter GROUP_ON for a group: LAMP on is asked for, and the group counts as lit from its first attempt (R173). -/
def State.enterGroup (s : State) (b : Bay) (g : Group) : State :=
  (s.setLampWork b { s.lampWorkOf b with step := some .groupOn, group := some g, lit := some g, window := none }).sendFor b .lamp
    (.lamp g true) false

/-- Judge the check and take it to its closing step (R176). -/
def State.judgeCheck (s : State) (b : Bay) : State :=
  let j := (s.lampWorkOf b).judge
  (s.recordJudgement b j).closingStep b .lamp j.endCode

/-- Go to the first present group from a number on, or judge the check (R172, R174, R176). -/
def State.groupFrom (s : State) (b : Bay) (n : Nat) : State :=
  match (s.lampWorkOf b).layout with
  | some l => match l.nextGroup n with
    | some g => s.enterGroup b g
    | none => s.judgeCheck b
  | none => s.judgeCheck b

/-- The outcome of a LAMP exchange of the procedure (R173, R174). -/
def State.lampEnded (s : State) (b : Bay) (on : Bool) : ExchEnd → State
  | .ok _ | .refused | .starting =>
    let w := s.lampWorkOf b
    if on then s.setLampWork b { w with seenLit := 0, window := some (.on, s.timeBase + windowTime) }
    else s.setLampWork b { w with lit := none, window := some (.off, s.timeBase + windowTime) }
  | .failed | .unanswered => s.closingStep b .lamp .linkFailed

/-! ### Loss of supply (R177) -/

/-- After a loss of supply: a LAMP off as one attempt if a group is counted lit, else the closing step (R177). -/
def State.afterLoss (s : State) (b : Bay) : State :=
  match (s.lampWorkOf b).lit with
  | some g => s.sendFor b .lamp (.lamp g false) true
  | none => s.closingStep b .lamp .noSupply

/-- The coach-seen fields of an IDENT reply that is not acted on otherwise (R89, R145, R177; log 29). -/
def State.seenOnly (s : State) (b : Bay) (act : Activity) : ExchEnd → State
  | .ok (.okIdent id code _) => s.setSeen b act id code
  | .ok _ | .refused | .starting | .failed | .unanswered => s

/-- An exchange of a check that has lost its supply ends (R177). -/
def State.lossEnded (s : State) (b : Bay) (x : Exchange) (o : ExchEnd) : State :=
  if o == .failed then s.closingStep b .lamp .linkFailed
  else ((s.seenOnly b .lamp o).offEnded b x.request).afterLoss b

/-- A running lamp check loses its claim (R177). -/
def State.lampSupplyLoss (s : State) (b : Bay) : State :=
  let s1 := s.returnComponent b .lamp
  let s2 := s1.setLampWork b { s1.lampWorkOf b with supplyOn := false, lost := true, window := none }
  match s2.exchOf b .lamp with
  | some _ => s2
  | none => s2.afterLoss b

/-! ### The end of an exchange (R143, R147, R148) -/

/-- An exchange of an activity under orderly stop ends (R148). -/
def State.orderlyEnded (s : State) (b : Bay) (act : Activity) (x : Exchange) (o : ExchEnd) : State :=
  if x.single && x.request == .sleep then s.orderlyRelease b act
  else ((s.seenOnly b act o).offEnded b x.request).orderlyNext b act (o == .failed)

/-- The outcome of an exchange of a running procedure, by its request (R143). -/
def State.procedureEnded (s : State) (b : Bay) (act : Activity) (ch : LinkIx) (x : Exchange) (o : ExchEnd) : State :=
  match x.request with
  | .wake => s.wakeEnded b act ch x.began o
  | .ident => s.identEnded b act ch o
  | .faultPage n => s.pageEnded b ch n o
  | .eraseStored => s.eraseEnded b o
  | .lamp _ on => s.lampEnded b on o
  | .sleep => s.releaseChannels b act

/-- The exchange on a link channel has ended; its outcome goes to the activity that holds the channel (R143). -/
def State.exchangeEnded (s : State) (ch : LinkIx) (x : Exchange) (o : ExchEnd) : State :=
  let s1 := s.setLink ch { s.link ch with exch := none, endedAt := some s.timeBase }
  match (s.link ch).holder with
  | none => s1
  | some (b, act) =>
    let a := s.act b act
    match a.stage, a.stop with
    | .closing, .none => s1.releaseChannels b act
    | .closing, .orderly => s1.orderlyEnded b act x o
    | .closing, .immediate => s1.releaseChannels b act
    | .none, _ | .supply, _ | .queued, _ => s1
    | .running, _ =>
      if act == .lamp && (s.lampWorkOf b).lost then s1.lossEnded b x o else s1.procedureEnded b act ch x o

/-! ### Attempts (R142, R143) -/

/-- The last byte of an attempt has gone: the reply timer starts, or an immediate stop releases the channels (R142, R149). -/
def State.frameSent (s : State) (ch : LinkIx) : State :=
  let c := s.link ch
  match c.exch with
  | some x =>
    if x.state == .sending then
      match c.holder with
      | some (b, act) =>
        if (s.act b act).stop == .immediate then s.releaseChannels b act
        else s.setLink ch { c with exch := some { x with state := .waiting (s.timeBase + replyTime) [] } }
      | none => s
    else s
  | none => s

/-- What an attempt without a reply, or with a BUSY reply, ends in when no attempt is left (R143). -/
def Exchange.lastEnd (x : Exchange) : ExchEnd := if x.single then .unanswered else .failed

/-- No attempt is left after this one (R143). -/
def Exchange.isLast (x : Exchange) : Bool := x.single || decide (3 ≤ x.attempt)

/-- A BUSY reply (R143). -/
def State.busyReply (s : State) (ch : LinkIx) (x : Exchange) : State :=
  if x.isLast then s.exchangeEnded ch x x.lastEnd
  else s.setLink ch { s.link ch with exch := some { x with state := .busy (s.timeBase + busyTime) } }

/-- A reply timer expires (R143). -/
def State.replyExpired (s : State) (ch : LinkIx) (x : Exchange) : State :=
  if x.isLast then s.exchangeEnded ch x x.lastEnd else s.nextAttempt ch

/-- A well-formed reply (R143). -/
def State.replied (s : State) (ch : LinkIx) (x : Exchange) : Reply → State
  | .busy => s.busyReply ch x
  | .refused => s.exchangeEnded ch x .refused
  | .starting => s.exchangeEnded ch x .starting
  | .ok => s.exchangeEnded ch x (.ok .ok)
  | .okIdent id code total => s.exchangeEnded ch x (.ok (.okIdent id code total))
  | .okPage more recs => s.exchangeEnded ch x (.ok (.okPage more recs))

/-- Bytes arrive on a channel. While a reply is awaited the Link Engine hunts in them: a well-formed frame answers the exchange, and the bytes of
a frame not yet complete are kept; at any other time they are ignored (R139, R141, R142; log 23). -/
def State.receive (s : State) (ch : LinkIx) (input : List LineByte) : State :=
  match (s.link ch).exch with
  | some x =>
    match x.state with
    | .waiting due got =>
      match hunt x.request (s.link ch).seq got input with
      | .reply r => s.replied ch x r
      | .listening more => s.setLink ch { s.link ch with exch := some { x with state := .waiting due more } }
    | .sending | .busy _ => s
  | none => s

/-- The bytes of a frame without framing errors arrive (R139, R140). -/
def State.receiveFrame (s : State) (ch : LinkIx) (frame : List Byte) : State := s.receive ch (onLine frame)

/-- The wake pause ends: a new WAKE exchange with a new sequence (R144). -/
def State.pauseOver (s : State) (ch : LinkIx) : State := (s.setLink ch { s.link ch with pause := none }).send ch .wake false

/-- The wake timer expires: during a pause the activity ends with NO_WAKE; during an exchange the exchange runs on (R144). -/
def State.wakeOver (s : State) (ch : LinkIx) : State :=
  let c := s.link ch
  let s1 := s.setLink ch { c with wakeTimer := none, pause := none }
  if c.pause.isSome then
    match c.holder with
    | some (b, act) => s1.closingStep b act .noWake
    | none => s1
  else s1

/-! ### Supply of a lamp check (R168 to R170) -/

/-- The closed notice to the LAMP claimant: supply on, and from POWER on to LINK (R169, R170). -/
def State.lampClosed (s : State) (b : Bay) : State :=
  let s1 := s.setLampWork b { s.lampWorkOf b with supplyOn := true }
  if (s1.lampWorkOf b).step == some .power then s1.lampToLink b else s1

/-- The LAMP claimant is told its claim is lost with NO_CLOSE or WELDED (R170, R177). -/
def State.lampLost (s : State) (b : Bay) : State :=
  let a := s.act b .lamp
  match a.stage with
  | .queued => s.endWaiting b .lamp .noSupply
  | .running => s.lampSupplyLoss b
  | .closing =>
    let s1 := s.returnComponent b .lamp
    s1.setLampWork b { s1.lampWorkOf b with supplyOn := false }
  | .none | .supply => s

/-- A grant is handed to the Lamp Checker, which claims the contactor (R169). -/
def State.lampGranted (s : State) (b : Bay) : State :=
  if (s.act b .lamp).stage == .supply then
    let s1 := s.claimCtr b .lamp
    match s.claimAnswer b .lamp with
    | .closed => (s1.lampClosed b).placeChan b .lamp
    | .joined => s1.placeChan b .lamp
    | .refusedNoPlug => s1.endWaiting b .lamp .plugOut
    | .refusedWelded => s1.endWaiting b .lamp .noSupply
  else s.returnComponent b .lamp

/-- Admission refuses the request or removes the entry of a check in SUPPLY (R168, R169). -/
def State.lampRefused (s : State) (b : Bay) : State :=
  if (s.act b .lamp).stage == .supply then s.endWaiting b .lamp .noSupply else s

/-- The begin tests of a lamp check (R168). -/
def State.lampMayBegin (s : State) (b : Bay) : Bool :=
  (s.act b .lamp).stage == .none && s.isAssigned b && s.occupied b && s.plugged b

/-- A begin request handed to the Lamp Checker (R168). -/
def State.beginLamp (s : State) (b : Bay) (origin : Origin) : State :=
  if s.lampMayBegin b then
    let s1 := (s.setLampWork b {}).setAct b .lamp { stage := .supply, origin := some origin }
    match s1.requestAnswer b .lamp none with
    | .refused => s1.lampRefused b
    | .listed _ => s1.request b .lamp none
    | .noEffect => s1.lampGranted b
  else s

/-- The begin tests of a fault read (R154). -/
def State.faultMayBegin (s : State) (b : Bay) : Bool :=
  (s.act b .fault).stage == .none && s.isAssigned b && s.occupied b

/-- A begin request handed to the Fault Reader (R154). -/
def State.beginFault (s : State) (b : Bay) (v : Variant) (origin : Origin) : State :=
  if s.faultMayBegin b then
    (s.setAct b .fault { stage := .queued, variant := v, origin := some origin }).placeChan b .fault
  else s

/-! ### Windows of a lamp check (R172 to R174) -/

/-- The lit-now set of the channel a bay's check holds (R171). -/
def State.litNow (s : State) (b : Bay) : Set8 :=
  match s.lampChOf b with
  | some lc => (s.lampCh lc).litNow
  | none => 0

/-- The baseline expires (R172). -/
def State.baselineOver (s : State) (b : Bay) : State :=
  let s1 := s.setLampWork b { s.lampWorkOf b with window := none }
  if s.litNow b != 0 then s1.closingStep b .lamp .ambient else s1.groupFrom b 0

/-- The on-window expires: DARK and CROSS are recorded, LAMP off is asked for, GROUP_OFF (R173, R175). -/
def State.onWindowOver (s : State) (b : Bay) : State :=
  let w := s.lampWorkOf b
  match w.group, w.layout with
  | some g, some l =>
    (s.setLampWork b { w with step := some .groupOff, window := none,
                              findings := vset w.findings g (some (l.findingOn g (s.litNow b) w.seenLit)) }).sendFor b .lamp
      (.lamp g false) false
  | _, _ => s.setLampWork b { w with window := none }

/-- The off-window expires: STUCK is recorded, and the next group or the judgement follows (R174, R175, R176). -/
def State.offWindowOver (s : State) (b : Bay) : State :=
  let w := s.lampWorkOf b
  match w.group with
  | some g =>
    (s.setLampWork b { w with window := none, judged := w.judged + 1,
                              findings := vset w.findings g (some { w.findingOf g with stuck := s.litNow b != 0 }) }).groupFrom b (g.val + 1)
  | none => s.setLampWork b { w with window := none }

/-- A sensor change is taken on a lamp channel (R171). -/
def State.sensorTaken (s : State) (lc : LampIx) (k : Sensor) (b : Bay) : State :=
  let c := s.lampCh lc
  let lit := (vget s.heads b).getLsbD k.val
  let one : Set8 := BitVec.ofNat 8 (2 ^ k.val)
  let s1 := s.setLampCh lc { c with settle := vset c.settle k none, litNow := if lit then c.litNow ||| one else c.litNow &&& ~~~ one }
  let w := s.lampWorkOf b
  match w.window with
  | some (.on, _) => if lit then s1.setLampWork b { w with seenLit := w.seenLit ||| one } else s1
  | _ => s1

end Sys2Proof.Machine
end

