-- ==== Sys2Proof/Machine/Supply.lean ====
section
/-! DEFINITION. Where Admission and the Bay Unit meet the claimants: notices, refusals, grants, sheds, examination, preemption
(R79 to R82, R96, R99, R102 to R108). -/

namespace Sys2Proof.Machine

open Sys2Proof.Config

/-! ### Notices to the claimants (R79 to R81) -/

/-- Every claimant in the set is given the closed notice (R79), HEAT before LAMP (DESIGN CHOICE, log 45). -/
def State.closedNotices (s : State) (b : Bay) : State :=
  let c := s.ctr b
  let s1 := if c.heat then s.enterHeating b else s
  if c.lamp then s1.lampClosed b else s1

/-- Every claimant leaves the set and is told its claim is lost (R79 to R81, R170), HEAT before LAMP, so that HEAT_ENDED is stamped before LAMP_RESULT
(R201; DESIGN CHOICE, log 45). -/
def State.loseClaims (s : State) (b : Bay) (why : HeatEnd) : State :=
  let c := s.ctr b
  let s1 := s.emptySet b
  let s2 := if c.heat then s1.heatLost b why else s1
  if c.lamp then s2.lampLost b else s2

/-! ### Bars beginning (R96, R99) -/

/-- An entry is removed by a bar, and its requester is told it was refused (R99). -/
def State.refuseEntry (s : State) (b : Bay) (p : Purpose) : State :=
  if (s.admEntry b p).isSome then
    match p with
    | .heat => (s.withdraw b p).heatRefused b
    | .lamp => (s.withdraw b p).lampRefused b
  else s

/-- STANDING entered by a weld notice, whatever the budget (R96). -/
def State.enterStanding (s : State) (b : Bay) : State :=
  (s.setClaim b { s.claim b with standing := some (s.standingAmount b) }).recomputeEffective

/-- The weld notice: STANDING is entered or kept, shedding is tested, and the bay's entries are removed and refused, HEAT before LAMP (R82, R96, R107;
DESIGN CHOICE, log 45). -/
def State.weldNotice (s : State) (b : Bay) : State :=
  let s1 := if (s.claim b).standing.isSome then s else s.enterStanding b
  ((s1.askLoad false true).refuseEntry b .heat).refuseEntry b .lamp

/-! ### Grants (R103) -/

/-- The HEAT component of a grant (R103). -/
def State.newHeatClaim (s : State) (b : Bay) (urgent : Bool) : HeatClaim :=
  { amount := s.heatAmount b, urgent := urgent, since := s.timeBase,
    hold := if s.settings.quantum = 0 then none else some (s.timeBase + s.settings.quantum * minute),
    eligible := s.settings.quantum == 0 }

/-- The claim record after a grant of an entry (R94, R103). -/
def State.claimWith (s : State) (e : AEntry) : ClaimRec :=
  let c := { s.claim e.bay with standing := some ((s.claim e.bay).standing.getD (s.standingAmount e.bay)) }
  match e.purpose with
  | .heat => { c with heat := some (s.newHeatClaim e.bay e.urgent) }
  | .lamp => { c with lamp := some (s.lampAmount e.bay) }

/-- The grant at Admission: the entry leaves the list, and its component is entered, with STANDING if not held (R103). -/
def State.enterGrant (s : State) (e : AEntry) : State :=
  ({ s with admList := s.admList.filter fun x => !x.is e.bay e.purpose }.setClaim e.bay (s.claimWith e)).recomputeEffective

/-- A grant is entered and handed to the requester, which claims the contactor (R103). -/
def State.grantEntry (s : State) (e : AEntry) : State :=
  match e.purpose with
  | .heat => (s.enterGrant e).heatGranted e.bay
  | .lamp => (s.enterGrant e).lampGranted e.bay

/-! ### Examination (R102) -/

/-- An examination under way: the state, the running granted total, and whether NORMAL is still open (R102). -/
structure Exam where
  st : State
  total : Nat
  normal : Bool

/-- Test one entry of the list (R102). -/
def Exam.test (x : Exam) (e : AEntry) : Exam :=
  if !(e.urgent || x.normal) || (x.st.admEntry e.bay e.purpose).isNone then x
  else
    let amount := x.st.entryAmount e.bay e.purpose
    if x.total + amount ≤ x.st.settings.target then { x with st := x.st.grantEntry e, total := x.total + amount }
    else { x with normal := x.normal && !e.urgent }

/-- Examine the Admission Waiting List in order (R102). -/
def State.examineAdm (s : State) : State := (s.admList.foldl Exam.test ⟨s, s.granted, true⟩).st

/-! ### Shedding and preemption (R105 to R108) -/

/-- Shed a bay's HEAT component (R108). Where the shed brings the granted total to the target, BUDGET_REACHED takes its stamp before CLAIM_SHED
(DESIGN CHOICE, log 40); the session is told last (log 45). -/
def State.shedHeat (s : State) (b : Bay) (preemption : Bool) : State :=
  match (s.claim b).heat with
  | some h =>
    let s1 := (s.setClaim b ((s.claim b).without .heat)).rebudget s.settings.target
    let s2 := s1.raise .claimShed (some b) (h.amount + flagAt preemption 8)
    (((s2.placeAdm b .heat ((s2.session b).arrival.getD s2.admCounter)).heatShed b).returnStanding b)
  | none => s

/-- Above the target, shed the next component while the projected total is above it (R107). -/
def State.reduce (s : State) : State :=
  if s.settings.target < s.projected then
    match s.reductionCandidate with
    | some b => s.shedHeat b false
    | none => s
  else s

/-- Test preemption for the head, the first URGENT entry, left untaken by an examination (R106, log 26). -/
def State.preempt (s : State) : State :=
  match s.admList.find? fun e => e.urgent with
  | some head =>
    if s.settings.target < s.projected + s.entryAmount head.bay head.purpose then
      match s.preemptionCandidate head.bay with
      | some b => s.shedHeat b true
      | none => s
    else s
  | none => s

/-- Admission's part of the agenda is done. -/
def State.admissionDone (s : State) : State := { s with agenda := { s.agenda with admission := false, preempt := false, shed := false } }

/-- Something is asked of Admission. -/
def Agenda.asksAdmission (a : Agenda) : Bool := a.admission || a.preempt || a.shed

/-- One round of Admission's work. Above the target: a test of shedding (R107). Else an examination, which ends in the test of preemption, or
that test alone (R102, R104, R106). -/
def State.admissionRound (s : State) : State :=
  let s1 := s.admissionDone
  if s.settings.target < s.effective then (if s.agenda.admission || s.agenda.shed then s1.reduce else s1)
  else if s.agenda.admission then s1.examineAdm.preempt
  else if s.agenda.preempt then s1.preempt
  else s1

/-! ### Times of Admission (R101, R104) -/

/-- A LAMP entry's supply wait expires (R101): SUPPLY_TIMEOUT before the LAMP_RESULT it leads to (log 45). -/
def State.supplyTimedOut (s : State) (b : Bay) : State :=
  ((s.withdraw b .lamp).raise .supplyTimeout (some b) 1).lampRefused b

/-- A hold timer expires: the eligible mark is set, and preemption is tested (R104, R106). -/
def State.holdExpired (s : State) (b : Bay) : State :=
  match (s.claim b).heat with
  | some h => (s.setClaim b { s.claim b with heat := some { h with hold := none, eligible := true } }).askLoad true false
  | none => s

/-- A held HEAT component under a changed hold quantum (R104). -/
def HeatClaim.requantum (h : HeatClaim) (now quantum : Nat) : HeatClaim :=
  if h.since + quantum * minute ≤ now then { h with hold := none, eligible := true }
  else { h with hold := some (h.since + quantum * minute), eligible := false }

/-- A claim record under a changed hold quantum (R104). -/
def ClaimRec.requantum (c : ClaimRec) (now quantum : Nat) : ClaimRec :=
  match c.heat with
  | some h => { c with heat := some (h.requantum now quantum) }
  | none => c

/-- A settings commit changed the hold quantum (R104). -/
def State.newQuantum (s : State) : State :=
  let cs : Bays ClaimRec := s.claims.map fun c => c.requantum s.timeBase s.settings.quantum
  { s with claims := cs }.askLoad true false

end Sys2Proof.Machine
end

