-- ==== Sys2Proof/Machine/Clearance.lean ====
section
/-! DEFINITION. Departure Clearance: vetting, its verdicts, the states of a clearance and the departure roster (R184 to R199). -/

namespace Sys2Proof.Machine

open Sys2Proof.Config

/-! ### Vetting (R185) -/

/-- A reason, if it applies. -/
def reasonIf (c : Bool) (r : Reasons) : Reasons := if c then r else 0

/-- The bay's lamp check or fault read has not ended (R131, R185, R189). -/
def State.checkUnderWay (s : State) (b : Bay) : Bool := (s.act b .lamp).stage != .none || (s.act b .fault).stage != .none

/-- The coach-seen fields agree with the plan copy and its class row (R185). -/
def State.identityMet (s : State) (b : Bay) : Bool :=
  match (s.bay b).seen with
  | some c => s.identityMatches b c.id c.code
  | none => false

/-- LAMP fails (R185). -/
def State.lampFails (s : State) (b : Bay) : Bool := !s.freshLamp b || (s.lampResult b).judged == some .fail

/-- FAULT fails (R185). -/
def State.faultFails (s : State) (b : Bay) : Bool := !s.freshRead b || s.blockingFault b

/-- HEAT fails (R185). -/
def State.heatFails (s : State) (b : Bay) (waiver : Bool) : Bool :=
  !waiver && (s.session b).state != .none && (s.session b).state != .complete

/-- The bay holds a claim component (R94). -/
def State.holdsAny (s : State) (b : Bay) : Bool := (s.claim b).standing.isSome || !(s.claim b).noIncrement

/-- CONTACTOR fails (R185). -/
def State.contactorFails (s : State) (b : Bay) : Bool := (s.ctr b).state != .open || s.holdsAny b

/-- The failing set of a vetting (R185). -/
def State.failing (s : State) (b : Bay) (q : ClrRequest) : Reasons :=
  reasonIf (!s.isAssigned b) rNoPlan ||| reasonIf (s.isAssigned b && q.run != s.planRun b) rRunMismatch |||
  reasonIf (!s.occupied b) rNotPresent ||| reasonIf (s.isAssigned b && !s.identityMet b) rIdentity |||
  reasonIf (s.lampFails b) rLamp ||| reasonIf (s.faultFails b) rFault ||| reasonIf (s.heatFails b q.waiver) rHeat |||
  reasonIf (s.plugged b) rPlug ||| reasonIf (s.contactorFails b) rContactor ||| reasonIf (s.hb.state != .live) rSilent |||
  reasonIf s.hold.taken rHold

/-- IDENTITY may be met by waiting (R185). -/
def State.identityWaitable (s : State) (b : Bay) : Bool :=
  s.checkUnderWay b || !s.freshLamp b || (!s.freshRead b && !s.blockingFault b)

/-- The conditions that waiting can meet, as they stand (R185). -/
def State.waitable (s : State) (b : Bay) : Reasons :=
  reasonIf (s.identityWaitable b) rIdentity ||| reasonIf (!s.freshLamp b) rLamp ||| reasonIf (!s.blockingFault b) rFault ||| rPlug |||
  reasonIf ((s.ctr b).state != .welded) rContactor

/-- The verdicts of a vetting (R185). -/
inductive Verdict
  | met
  | withheld
  | waiting
  deriving DecidableEq, Repr

/-- The verdict of a vetting (R185). -/
def State.verdict (s : State) (b : Bay) (q : ClrRequest) : Verdict :=
  if s.failing b q == 0 then .met
  else if s.failing b q &&& ~~~ s.waitable b != 0 then .withheld
  else .waiting

/-- A heat waiver ends a live session at a vetting that is not withheld (R186, R188). -/
def State.waive (s : State) (b : Bay) (q : ClrRequest) : State := if q.waiver then s.endSession b .waived else s

/-! ### Entries into the states (R187, R190, R192, R193) -/

/-- The bars of a clearance state begin: the bay's barred entries are removed and refused (R99), HEAT before LAMP (DESIGN CHOICE, log 45). -/
def State.barBegins (s : State) (b : Bay) (st : ClrState) : State :=
  let s1 := if st.bars .heat then s.refuseEntry b .heat else s
  if st.bars .lamp then s1.refuseEntry b .lamp else s1

/-- Enter DEPARTING from CLEARED (R193). -/
def State.enterDeparting (s : State) (b : Bay) : State :=
  ((s.setClearance b { s.clearance b with state := .departing, lapse := .stopped }).setSignal b false).barBegins b .departing

/-- CLEARED shows PROCEED and raises its event; a loop already OCCUPIED leads on to DEPARTING (R190, R192, R193). -/
def State.showCleared (s : State) (b : Bay) (resumed : Bool) (seq : Nat) : State :=
  let s1 := (s.setSignal b true).raise .cleared (some b) (flagAt resumed 0) seq
  if s1.looped b then s1.enterDeparting b else s1

/-- Enter CLEARED from NONE or PREPARING (R190). -/
def State.enterCleared (s : State) (b : Bay) (q : ClrRequest) : State :=
  let old := (s.clearance b).state
  let s1 := s.setClearance b { s.clearance b with
    state := .cleared, request := some q, failing := 0, lampPlaced := false, faultPlaced := false, clearedTime := s.clockTime,
    prep := none, lapse := .running (s.timeBase + s.settings.lapse * minute) }
  let s2 := if old == .preparing then s1.relevelChans (· == b) else s1
  (s2.barBegins b .cleared).showCleared b false q.seq

/-- Ask for a CLEARANCE-origin lamp check where the placement test passes (R187). -/
def State.placeLamp (s : State) (b : Bay) : State :=
  if !(s.clearance b).lampPlaced && !s.freshLamp b && s.lampMayBegin b then
    (s.setClearance b { s.clearance b with lampPlaced := true }).beginLamp b .clearance
  else s

/-- Ask for a CLEARANCE-origin fault read where the placement test passes (R187). -/
def State.placeFault (s : State) (b : Bay) : State :=
  if !(s.clearance b).faultPlaced && !s.freshRead b && !s.blockingFault b && s.faultMayBegin b then
    (s.setClearance b { s.clearance b with faultPlaced := true }).beginFault b .read .clearance
  else s

/-- Enter PREPARING from NONE with the failing set as vetted (R186, R187); the lamp check is placed first (DESIGN CHOICE, log 45). -/
def State.enterPreparing (s : State) (b : Bay) (q : ClrRequest) (failing : Reasons) : State :=
  let s1 := s.setClearance b { s.clearance b with
    state := .preparing, request := some q, failing := failing, lampPlaced := false, faultPlaced := false,
    prep := some (s.timeBase + s.settings.prep * minute) }
  ((((s1.barBegins b .preparing).relevelChans (· == b)).placeLamp b).placeFault b)

/-- Enter SUSPENDED from CLEARED, with `left` of the lapse time to run (R192). -/
def State.enterSuspended (s : State) (b : Bay) : State :=
  let c := s.clearance b
  let left := match c.lapse with
    | .running due => due - s.timeBase
    | .paused l => l
    | .stopped => 0
  (((s.setClearance b { c with state := .suspended, lapse := .paused left }).setSignal b false).barBegins b .suspended).raise
    .suspended (some b) ((left + (second - 1)) / second)

/-- Return to CLEARED at a hold release (R192). -/
def State.resumeCleared (s : State) (b : Bay) (q : ClrRequest) : State :=
  let c := s.clearance b
  let lapse := match c.lapse with
    | .paused l => LapseTimer.running (s.timeBase + l)
    | .running d => LapseTimer.running d
    | .stopped => LapseTimer.stopped
  ((s.setClearance b { c with state := .cleared, lapse := lapse, clearedTime := s.clockTime }).barBegins b .cleared).showCleared b true q.seq

/-! ### Re-vetting (R188, R189) -/

/-- Vet a PREPARING clearance again and act on the verdict (R188). -/
def State.revet (s : State) (b : Bay) : State :=
  let c := s.clearance b
  match c.state, c.request with
  | .preparing, some q =>
    match s.verdict b q with
    | .withheld => s.endClearance b .withheld (s.failing b q)
    | .met => (s.waive b q).enterCleared b q
    | .waiting =>
      let s1 := s.waive b q
      ((s1.setClearance b { s1.clearance b with failing := s.failing b q }).placeLamp b).placeFault b
  | _, _ => s

/-- The preparation timer expires (R189). -/
def State.preparationOver (s : State) (b : Bay) : State :=
  match (s.clearance b).request with
  | some q => s.endClearance b .withheld (s.failing b q ||| reasonIf (s.checkUnderWay b) rCheckPending)
  | none => s

/-! ### Requests (R184, R186, R195) -/

/-- Refuse a request (R184). -/
def State.refuseRequest (s : State) (b : Bay) (r : Refused) (seq : Nat) : State :=
  s.raise .orderRefused (some b) (r.code + flagAt true 15) seq

/-- A CLEAR taken in NONE (R186). -/
def State.takeClear (s : State) (b : Bay) (q : ClrRequest) : State :=
  match s.verdict b q with
  | .withheld =>
    (s.setClearance b { s.clearance b with outcome := some .withheld, reasons := s.failing b q, outcomeTime := s.clockTime }).raiseOutcome b
      .withheld (s.failing b q) q.seq
  | .met => (s.waive b q).enterCleared b q
  | .waiting => (s.waive b q).enterPreparing b q (s.failing b q)

/-- Stop the bay's check of a kind if its origin is CLEARANCE (R195). -/
def State.stopClearanceCheck (s : State) (b : Bay) (act : Activity) : State :=
  if (s.act b act).origin == some .clearance then s.orderlyStop b act false else s

/-- A CANCEL taken while the clearance is not NONE (R195): CANCELLED comes before the results of the checks it stops (DESIGN CHOICE, log 17). -/
def State.cancelClearance (s : State) (b : Bay) : State :=
  ((s.endClearance b .cancelled rRequested).stopClearanceCheck b .lamp).stopClearanceCheck b .fault

/-- A request word is handed to the Clearance Unit (R184). -/
def State.takeRequest (s : State) (b : Bay) (r : ClearRow) : State :=
  let c := s.clearance b
  if c.lastSeq == some r.seq then s
  else
    let s1 := s.setClearance b { c with lastSeq := some r.seq }
    match r.action, c.state with
    | .clear, .none => s1.takeClear b ⟨r.waiver, r.run, r.seq⟩
    | .clear, _ => s1.refuseRequest b .busy r.seq
    | .cancel, .none => s1.refuseRequest b .nothingToCancel r.seq
    | .cancel, _ => s1.cancelClearance b

/-! ### Occurrences at a clearance (R188, R191 to R194, R196) -/

/-- The plug went IN (R85, R188, R191, R192). -/
def State.clearancePlugIn (s : State) (b : Bay) : State :=
  match (s.clearance b).state with
  | .cleared | .suspended => s.endClearance b .revoked rPlug
  | .preparing => s.askVet b
  | .none | .departing => s

/-- The yard hold went ACTIVE (R75, R191, R198). -/
def State.clearanceHold (s : State) (b : Bay) : State :=
  match (s.clearance b).state with
  | .cleared => s.enterSuspended b
  | .preparing => s.askVet b
  | .none | .suspended | .departing => s

/-- The yard hold went INACTIVE (R75, R192). -/
def State.clearanceRelease (s : State) (b : Bay) : State :=
  let c := s.clearance b
  match c.state, c.request with
  | .suspended, some q =>
    if s.verdict b q == .met then (s.waive b q).resumeCleared b q else s.endClearance b .withheld (s.failing b q)
  | .preparing, _ => s.askVet b
  | _, _ => s

/-- The exit loop went OCCUPIED (R74, R191 to R193). -/
def State.clearanceLoopOn (s : State) (b : Bay) : State :=
  let c := s.clearance b
  match c.state with
  | .cleared => s.enterDeparting b
  | .suspended => s.endClearance b .revoked rHold
  | .departing => s.setClearance b { c with reverse := none }
  | .none | .preparing => s

/-- The exit loop went FREE (R74, R193). -/
def State.clearanceLoopOff (s : State) (b : Bay) : State :=
  let c := s.clearance b
  if c.state == .departing && s.occupied b then s.setClearance b { c with reverse := some (s.timeBase + reverseTime) } else s

/-- Presence went EMPTY on a bay that was ASSIGNED (R193, R194). -/
def State.clearanceEmpty (s : State) (b : Bay) : State :=
  let st := (s.clearance b).state
  match st with
  | .departing => s.endClearance b .departed 0
  | .none => s.raise .unauthorisedDeparture (some b) st.code
  | .preparing => (s.raise .unauthorisedDeparture (some b) st.code).endClearance b .withheld rNotPresent
  | .cleared | .suspended => (s.raise .unauthorisedDeparture (some b) st.code).endClearance b .revoked rNotPresent

/-- A new assignment or a withdrawal (R196). -/
def State.clearancePlanChange (s : State) (b : Bay) : State :=
  if (s.clearance b).state == .none then s else s.endClearance b .cancelled rPlanChanged

/-! ### The departure roster (R199) -/

/-- The bay's roster test (R199). -/
def State.rosterDue (s : State) (b : Bay) : Bool :=
  s.isAssigned b && s.occupied b &&
  (match (s.bay b).plan with
   | some p => p.autoChecks && (match p.roster with | some t => s.reached (minusMinutes t s.settings.checkLead) | none => false)
   | none => false) &&
  ((s.clearance b).state == .none || (s.clearance b).state == .preparing)

/-- Ask for an AUTO lamp check (R199). -/
def State.autoLamp (s : State) (b : Bay) : State :=
  if s.rosterDue b && !(s.bay b).autoLamp && !s.freshLamp b && (s.act b .lamp).stage == .none && s.plugged b then
    (s.setBay b { s.bay b with autoLamp := true }).beginLamp b .auto
  else s

/-- Ask for an AUTO fault read (R199). -/
def State.autoFault (s : State) (b : Bay) : State :=
  if s.rosterDue b && !(s.bay b).autoFault && !s.freshRead b && (s.act b .fault).stage == .none then
    (s.setBay b { s.bay b with autoFault := true }).beginFault b .read .auto
  else s

/-- The departure roster evaluation of a bay (R199), the lamp check first (DESIGN CHOICE, log 45). -/
def State.rosterEvaluation (s : State) (b : Bay) : State := (s.autoLamp b).autoFault b

end Sys2Proof.Machine
end

