-- ==== Sys2Proof/Machine/Settle.lean ====
section
/-! DEFINITION. The agenda of one command: examinations and vettings asked for inside it are made before it ends (log 15, log 16). -/

namespace Sys2Proof.Machine

open Sys2Proof.Config

/-- The first bay whose clearance is to be vetted again. -/
def State.firstVet (s : State) : Option Bay := (List.finRange 16).find? fun b => vget s.agenda.vet b

/-- Vet one flagged bay (R188). -/
def State.vetRound (s : State) (b : Bay) : State :=
  { s with agenda := { s.agenda with vet := vset s.agenda.vet b false } }.revet b

/-- Examine the channel list as asked for (R135). -/
def State.poolRound (s : State) : State := { s with agenda := { s.agenda with pool := false } }.examineChannels

/-- One round: Admission's work first, then the pool's, then the first vetting; none when nothing is asked for (log 15). -/
def State.settleRound (s : State) : Option State :=
  if s.agenda.asksAdmission then some s.admissionRound
  else if s.agenda.pool then some s.poolRound
  else match s.firstVet with
    | some b => some (s.vetRound b)
    | none => none

/-- Rounds until nothing is asked for, at most `n` of them (log 16). -/
def settleN : Nat → State → State
  | 0, s => s
  | n + 1, s => match s.settleRound with
    | some s' => settleN n s'
    | none => s

/-- Carry out everything the present command has asked for (log 15, log 16). -/
def State.settle (s : State) : State := settleN agendaRounds s

end Sys2Proof.Machine
end

