-- ==== Sys2Proof/Machine/BayUnit.lean ====
section
/-! DEFINITION. The Bay Unit: settling of lines, line changes, contactor limits, release, assignment (R68 to R85, R90). -/

namespace Sys2Proof.Machine

open Sys2Proof.Config

/-! ### Sensing (R68) -/

/-- A new level at a sensed pin: the settle timer starts when it differs from the taken value and stops when it returns; none runs
before the start-up end steps (`sensing` false). -/
def LineState.atLevel (l : LineState) (lv sensing : Bool) (now : Nat) : LineState :=
  { l with level := lv,
           settle := if lv == l.taken || !sensing then none else if l.level == lv then l.settle else some (now + lineSettle) }

/-- The new level becomes the taken value (R68). -/
def LineState.take (l : LineState) : LineState := { l with taken := l.level, settle := none }

/-- A change to `lv` may be taken: the settle timer runs and the pin shows the new level (R68, log 1). -/
def LineState.due (l : LineState) (lv : Bool) : Timer := if l.level == lv && l.taken != lv then l.settle else none

/-- The Bay Units take line changes: the start-up reload does not run (R68). -/
def State.sensing (s : State) : Bool := s.path.reload.isNone

/-- A level change at a pin (R68). -/
def State.pinChange (s : State) (ln : Line) (lv : Bool) : State :=
  let f := fun (l : LineState) => l.atLevel lv s.sensing s.timeBase
  match ln with
  | .presence b => s.setLines b { s.line b with presence := f (s.line b).presence }
  | .plug b => s.setLines b { s.line b with plug := f (s.line b).plug }
  | .loop b => s.setLines b { s.line b with loop := f (s.line b).loop }
  | .feedback b => s.setLines b { s.line b with feedback := f (s.line b).feedback }
  | .hold => { s with hold := f s.hold }

/-! ### Presence (R71 to R73) -/

/-- Presence taken OCCUPIED (R72). -/
def State.presenceOn (s : State) (b : Bay) : State :=
  ((s.setLines b { s.line b with presence := (s.line b).presence.take }).startTest b).askVet b

/-- Both activities of the bay are given an immediate stop with reason EMPTY (R71, R73, R149). At an UNASSIGNED or DEPARTED bay this reaches one at its
closing step too, as R149 has it (DESIGN CHOICE beside R73, log 42). -/
def State.stopsEmpty (s : State) (b : Bay) : State := (s.immediateStop b .lamp .empty).immediateStop b .fault .empty

/-- The departure endings of an ASSIGNED bay (R71, R194), the clearance's last; session, lamp check and fault read in this order (DESIGN CHOICE,
log 17). -/
def State.departure (s : State) (b : Bay) : State :=
  let s1 := s.setBay b { s.bay b with assignment := .departed }
  (((s1.endSession b .departed).stopsEmpty b).clearanceEmpty b).askVet b

/-- Presence taken EMPTY (R73). -/
def State.presenceOff (s : State) (b : Bay) : State :=
  let s1 := s.setLines b { s.line b with presence := (s.line b).presence.take }
  if s1.isAssigned b then s1.departure b else s1.stopsEmpty b

/-! ### Plug (R84, R85) -/

/-- The contactor's part of a pulled plug: PLUG_PULLED, the set emptied, the drive opened (R84). -/
def State.plugPulled (s : State) (b : Bay) : State :=
  let st := (s.ctr b).state
  if st == .open then s
  else
    let s1 := (s.raise .plugPulled (some b) st.code).emptySet b
    match st with
    | .closing | .closed => s1.driveOpen b
    | .open | .opening | .failedClose | .welded => s1

/-- The plug taken OUT (R84), block after block (DESIGN CHOICE, log 17). -/
def State.plugOff (s : State) (b : Bay) : State :=
  let s1 := s.setLines b { s.line b with plug := (s.line b).plug.take }
  ((((s1.plugPulled b).heatPlugOut b).immediateStop b .lamp .plugOut).askVet b)

/-- The plug taken IN (R85): the Heat Controller before the Clearance Unit (DESIGN CHOICE, log 17). -/
def State.plugOn (s : State) (b : Bay) : State :=
  let s1 := s.setLines b { s.line b with plug := (s.line b).plug.take }
  (s1.heatPlugIn b).clearancePlugIn b

/-! ### Exit loop and yard hold (R74, R75) -/

/-- The exit loop taken OCCUPIED (R74). -/
def State.loopOn (s : State) (b : Bay) : State :=
  (s.setLines b { s.line b with loop := (s.line b).loop.take }).clearanceLoopOn b

/-- The exit loop taken FREE (R74). -/
def State.loopOff (s : State) (b : Bay) : State :=
  (s.setLines b { s.line b with loop := (s.line b).loop.take }).clearanceLoopOff b

/-- Something done for every bay, in rising bay number (DESIGN CHOICE, log 17). -/
def State.eachBay (s : State) (f : State → Bay → State) : State := (List.finRange 16).foldl f s

/-- The yard hold's new level becomes its taken value (R68, R75). -/
def State.takeHold (s : State) : State := { s with hold := s.hold.take }

/-- The yard hold taken ACTIVE (R75). -/
def State.holdOn (s : State) : State :=
  (s.takeHold.raise .holdOn none 0).eachBay State.clearanceHold

/-- The yard hold taken INACTIVE (R75). -/
def State.holdOff (s : State) : State :=
  (s.takeHold.raise .holdOff none 0).eachBay State.clearanceRelease

/-! ### Contactor feedback and limits (R79 to R81, R83) -/

/-- FEEDBACK_UNEXPECTED with the contactor state and the new level (R81). -/
def State.unexpected (s : State) (b : Bay) (closed : Bool) : State :=
  s.raise .feedbackUnexpected (some b) ((s.ctr b).state.code + flagAt closed 3)

/-- An unexpected closure welds an OPEN or FAILED_CLOSE contactor (R81). CONTACTOR_WELD takes its stamp before the REVOKED of the bay's clearance (R197,
R201; DESIGN CHOICE, log 45). -/
def State.weldFound (s : State) (b : Bay) : State :=
  ((s.raise .contactorWeld (some b) (s.ctr b).state.code).moveCtr b .welded none).weldNotice b

/-- Contactor feedback taken closed (R79, R81). -/
def State.feedbackOn (s : State) (b : Bay) : State :=
  let s1 := s.setLines b { s.line b with feedback := (s.line b).feedback.take }
  match (s.ctr b).state with
  | .closing => (s1.moveCtr b .closed none).closedNotices b
  | .open | .failedClose => (s1.unexpected b true).weldFound b
  | .closed | .opening | .welded => s1.unexpected b true

/-- A CLOSED contactor opens of its own accord (R81); the claimants' events follow FEEDBACK_UNEXPECTED (DESIGN CHOICE, log 45). -/
def State.fellOpen (s : State) (b : Bay) : State := ((s.moveCtr b .failedClose none).loseClaims b .noClose).returnStanding b

/-- Contactor feedback taken open (R80, R81). -/
def State.feedbackOff (s : State) (b : Bay) : State :=
  let s1 := s.setLines b { s.line b with feedback := (s.line b).feedback.take }
  match (s.ctr b).state with
  | .opening => s1.openingEnds b
  | .closed => (s1.unexpected b false).fellOpen b
  | .open | .closing | .failedClose | .welded => s1.unexpected b false

/-- A CLOSING contactor's limit expires (R79): the events of the claimants that lose it are stamped before CONTACTOR_NO_CLOSE (R201; DESIGN CHOICE,
log 45). -/
def State.closeFailed (s : State) (b : Bay) : State :=
  let set := (s.ctr b).setCode
  (((s.moveCtr b .failedClose none).loseClaims b .noClose).raise .contactorNoClose (some b) set).returnStanding b

/-- An OPENING contactor's limit expires: WELDED, with START_UP as the state found after the end steps (R80, R90). The events of the claimants that lose
it are stamped before CONTACTOR_WELD (R201; DESIGN CHOICE, log 45). -/
def State.openFailed (s : State) (b : Bay) : State :=
  let found := if (s.ctr b).startUp then 6 else CtrState.opening.code
  (((s.moveCtr b .welded none).loseClaims b .welded).raise .contactorWeld (some b) found).weldNotice b

/-- A maintenance release (R83); STANDING goes back, and BUDGET_REACHED may follow from it, before CONTACTOR_RELEASED (DESIGN CHOICE, log 45). -/
def State.maintenanceRelease (s : State) (b : Bay) : State :=
  let held := (s.claim b).standing.getD 0
  (((s.emptySet b).moveCtr b .open none).returnStanding b).raise .contactorReleased (some b) held

/-! ### Assignment (R43 to R45, R70) -/

/-- The endings of a new assignment or a withdrawal at the other owners (R44, R70), owner after owner (DESIGN CHOICE, log 17). -/
def State.planEndings (s : State) (b : Bay) : State :=
  ((((((s.endSession b .planChanged).orderlyStop b .lamp true).orderlyStop b .fault true).clearancePlanChange b).emptyFaults b).emptyLampResult b)

/-- A new assignment (R70, R114). -/
def State.newAssignment (s : State) (b : Bay) (row : PlanRow) : State :=
  let s1 := (s.planEndings b).setBay b { assignment := .assigned, plan := some row, proceed := ((s.planEndings b).bay b).proceed, roster := row.roster }
  (s1.newSession b row.readyBy).askVet b

/-- A withdrawal (R70). -/
def State.withdrawal (s : State) (b : Bay) : State :=
  ((s.planEndings b).setBay b { proceed := ((s.planEndings b).bay b).proceed }).askVet b

/-- An amendment (R45); one whose fields all equal the plan copy changes nothing. -/
def State.amendment (s : State) (b : Bay) (old row : PlanRow) : State :=
  if old == row then s
  else ((s.setBay b { s.bay b with plan := some row }).heatAmend b old.readyBy row.readyBy).askVet b

/-- The Bay Unit classifies a plan row commit (R43). -/
def State.planCommitted (s : State) (b : Bay) (row : PlanRow) : State :=
  let r := s.bay b
  if row.enabled then
    match r.assignment, r.plan with
    | .assigned, some old =>
      if old.coachId == row.coachId && old.classIx == row.classIx then s.amendment b old row else s.newAssignment b row
    | _, _ => s.newAssignment b row
  else if r.assignment == .unassigned then s else s.withdrawal b

/-! ### Start-up (R90) -/

/-- The sampled lines of a bay at the end steps (R90). -/
def BayLines.sampled (l : BayLines) : BayLines :=
  { presence := l.presence.take, plug := l.plug.take, loop := l.loop.take, feedback := l.feedback.take }

/-- The contactor placed by its sampled feedback (R90). -/
def State.placedCtr (s : State) (b : Bay) : Contactor :=
  if s.fedBack b then { state := .opening, limit := some (s.timeBase + contactorLimit), startUp := true } else {}

/-- The end steps at one bay (R90, R129). -/
def State.startBay (s : State) (b : Bay) : State :=
  let s1 := s.setLines b (s.line b).sampled
  (s1.setCtr b (s1.placedCtr b)).startTest b

/-- The start-up end steps (R31, R90, R129), bay after bay in rising number (DESIGN CHOICE, log 45). -/
def State.endSteps (s : State) : State :=
  let s1 := s.takeHold.eachBay State.startBay
  { s1 with post := { s1.post with dirty := Vector.replicate 32 true } }

end Sys2Proof.Machine
end

