-- ==== Sys2Proof/Machine/DepotClock.lean ====
section
/-! DEFINITION. The Depot Clock: minute events, the advance of a second, clock-set and trim (R55 to R59, R65). -/

namespace Sys2Proof.Machine

open Sys2Proof.Config

/-- The departure roster time of a plan copy. -/
def BayRec.planRoster (r : BayRec) : Option Nat := match r.plan with | some p => p.roster | none => none

/-- Roster times and horizon as they stand at a minute event come into use (R39, R45, R100, R134; log 18). -/
def State.rosterInUse (s : State) : State :=
  let bs : Bays BayRec := s.bays.map fun r => { r with roster := r.planRoster }
  { s with horizon := s.settings.horizon, bays := bs }

/-- A minute event handed to the Heat Controller, Feeder Admission, the Channel Pool and the Clearance Unit; none is handed while the
start-up reload runs (R57, R65; log 17, log 31). -/
def State.minuteEvent (s : State) : State :=
  if s.path.reload.isSome then s
  else
    let s1 := s.rosterInUse.eachBay State.heatMinute
    let s2 := (s1.relevelAdm.eachBay State.relevelClaim).relevelChans fun _ => true
    (s2.eachBay State.rosterEvaluation).askVetAll

/-- Day and second after one second (R55). -/
def Clock.nextSecond (c : Clock) : Clock :=
  if c.sec < 86399 then { c with sec := c.sec + 1 } else { c with sec := 0, day := (c.day + 1) % 65536 }

/-- The sub-second phase of a VALID clock reaches one second (R55, log 4). -/
def State.secondPasses (s : State) : State :=
  let c := s.clock.nextSecond
  let s1 := { s.advanceTo (s.clock.phaseFrom + second) with clock := { c with phaseFrom := s.clock.phaseFrom + second } }
  if c.sec % 60 == 0 then s1.minuteEvent else s1

/-- A clock-set record commits (R58): CLOCK_SET after the events of the minute event's receivers (log 45). -/
def State.clockSet (s : State) (r : ClockSetRow) : State :=
  ({ s with clock := ⟨true, r.day, r.sec, s.timeBase⟩ }.minuteEvent).raise .clockSet none r.day

/-- The clock at the start of the next minute (R59). -/
def Clock.nextMinute (c : Clock) : Clock :=
  let sec := c.sec - c.sec % 60 + 60
  if sec < 86400 then { c with sec := sec } else { c with sec := 0, day := (c.day + 1) % 65536 }

/-- A trim request (R59). CLOCK_TRIMMED takes its stamp after the events of the minute event's receivers (DESIGN CHOICE, log 45). -/
def State.clockTrim (s : State) : State :=
  let k := s.clock.sec % 60
  if !s.clock.valid then s
  else if k < 30 then
    { s with clock := { s.clock with sec := s.clock.sec - k, phaseFrom := s.timeBase } }.raise .clockTrimmed none k
  else
    ({ s with clock := { s.clock.nextMinute with phaseFrom := s.timeBase } }.minuteEvent).raise .clockTrimmed none k

end Sys2Proof.Machine
end

