-- ==== Sys2Proof/Machine/Capture.lean ====
section
/-! DEFINITION. The Capture Unit: staging, commits, hand-over of settings, classes, plans, orders, progress and acknowledgements
(R32 to R53), the Heartbeat Monitor (R211) and the acknowledgement of latches (R208). -/

namespace Sys2Proof.Machine

open Sys2Proof.Config

/-! ### Attention, consumer index and heartbeat (R205, R208, R211) -/

/-- An acknowledgement clears the latch of a named cause that its newest stamp and its level condition allow (R208). -/
def State.ackCause (s : State) (r : AckRow) (c : Fin 10) : Bool :=
  r.causes.getLsbD c.val && !((vget s.att.newest c).any fun n => newer n r.stamp) && !s.levelCondition c

/-- The latches after an acknowledgement (R208). -/
def State.acknowledge (s : State) (r : AckRow) : State :=
  let keep := (List.finRange 10).foldl (fun a c => if s.ackCause r c then a &&& ~~~ causeBit c else a) s.att.latches
  { s with att := { s.att with latches := keep } }

/-- A candidate consumer index (R205). One taken back to 256 behind the producer index does not undo an event posting already selected (DESIGN
CHOICE, log 44). -/
def State.takeIndex (s : State) (k : BitVec 16) : State :=
  if (s.ev.producer - k).toNat ≤ ringSlots then { s with ev := { s.ev with consumer := k } }
  else s.raise .indexInvalid none k.toNat

/-- The seconds spent SILENT, held at 65535 (R211). -/
def State.silentSeconds (s : State) : Nat := min 65535 ((s.timeBase - s.hb.silentSince) / second)

/-- A heartbeat (R211). -/
def State.heartbeat (s : State) : State :=
  let s1 := { s with hb := { s.hb with state := .live, timer := some (s.timeBase + s.settings.heartbeat * second), period := s.settings.heartbeat } }
  match s.hb.state with
  | .live => s1
  | .awaiting => s1.askVetAll
  | .silent => (s1.raise .supervisorBack none s.silentSeconds).askVetAll

/-- The heartbeat timer of a LIVE supervisor expires (R198, R211). -/
def State.heartbeatLost (s : State) : State :=
  ({ s with hb := { s.hb with state := .silent, timer := none, silentSince := s.timeBase } }.raise .supervisorSilent none s.hb.period).askVetAll

/-- A progress write: candidate index and heartbeat (R51, log 17). -/
def State.progress (s : State) (w : Word) : State := (s.takeIndex (w.extractLsb' 0 16)).heartbeat

/-! ### Commits and their hand-over (R35, R36, R39, R41) -/

/-- A committed settings record reaches the blocks whose fields have changed (R39, R92, R104, R113). The order of the blocks, and rising bay number
for the sessions that a changed band recomputes, are the model's (DESIGN CHOICE, log 17). -/
def State.settingsCommitted (s : State) (n : Settings) : State :=
  let old := s.settings
  let s1 := { s with settings := n }
  let s2 := if old.target == n.target then s1 else s1.rebudget old.target
  let s3 := if old.quantum == n.quantum then s2 else s2.newQuantum
  if old.band == n.band then s3 else s3.eachBay State.recompute

/-- The bay's plan copy names the class. -/
def State.namesClass (s : State) (b : Bay) (c : ClassIx) : Bool :=
  match (s.bay b).plan with
  | some p => p.classIx == c
  | none => false

/-- A committed class row (R41, R113, R188). Its sessions are recomputed in rising bay number (DESIGN CHOICE, log 17). -/
def State.classCommitted (s : State) (c : ClassIx) (row : ClassRow) : State :=
  { s with classes := vset s.classes c (some row) }.eachBay fun u b => if u.namesClass b c then (u.recompute b).askVet b else u

/-- The low 16 bits of the byte address of a region offset's word (R35). -/
def State.regionEvent (s : State) (offset : Nat) : Nat := (regionAddr s.path.base offset).toNat % 65536

/-- ROW_REJECTED for the check word at a region offset (R35). -/
def State.rejectRow (s : State) (bay : Option Bay) (offset : Nat) : State := s.raise .rowRejected bay (s.regionEvent offset)

/-- Test the settings image and commit it, or reject it (R35). -/
def State.commitSettings (s : State) : State :=
  match decodeSettings s.cap.settings with
  | some n => s.settingsCommitted n
  | none => s.rejectRow none 0x3C

/-- Test the clock-set image (R35, R49, R58). -/
def State.commitClockSet (s : State) : State :=
  match decodeClockSet s.cap.clockSet with
  | some r => { s with clockSetCopy := some r }.clockSet r
  | none => s.rejectRow none 0x48

/-- Test the acknowledge image (R35, R52). -/
def State.commitAck (s : State) : State :=
  match decodeAck s.cap.ack with
  | some r => { s with ackCopy := some r }.acknowledge r
  | none => s.rejectRow none 0x5C

/-- Test a class image (R35, R40). -/
def State.commitClass (s : State) (c : ClassIx) : State :=
  match decodeClass (vget s.cap.classes c) with
  | some r => s.classCommitted c r
  | none => s.rejectRow none (0x200 + 0x20 * c.val + 0x1C)

/-- Test a plan image (R35, R42). -/
def State.commitPlan (s : State) (b : Bay) : State :=
  match decodePlan s.classes (vget s.cap.plans b) with
  | some r => { s with plans := vset s.plans b (some r) }.planCommitted b r
  | none => s.rejectRow (some b) (0x600 + 0x20 * b.val + 0x1C)

/-! ### Orders (R46 to R48) -/

/-- The clearance refuses orders (R47). -/
def State.clearanceActive (s : State) (b : Bay) : Bool := (s.clearance b).state.needsOpen

/-- The first of the listed tests that fails. -/
def firstFailing : List (Bool × Refused) → Option Refused
  | [] => none
  | (fails, r) :: rest => if fails then some r else firstFailing rest

/-- The tests of an order's kind in their order (R47). -/
def State.orderTests (s : State) (b : Bay) : OrderKind → List (Bool × Refused)
  | .lampCheck => [(!s.isAssigned b, .noPlan), (!s.occupied b, .empty), (!s.plugged b, .noPlug), (s.clearanceActive b, .clearanceActive),
      ((s.act b .lamp).stage != .none, .busy)]
  | .faultRead | .faultReadErase => [(!s.isAssigned b, .noPlan), (!s.occupied b, .empty), (s.clearanceActive b, .clearanceActive),
      ((s.act b .fault).stage != .none, .busy)]
  | .cancelHeat | .cancelChecks => [(!s.isAssigned b, .noPlan)]
  | .releaseContactor => [((s.ctr b).state != .welded, .notWelded), (s.fedBack b, .stillClosed)]
  | .unknown => [(true, .unknownKind)]

/-- An order that passes its tests is carried out (R48). CANCEL_CHECKS stops the lamp check before the fault read (R148, R163, R178; DESIGN CHOICE,
log 45). -/
def State.carryOut (s : State) (b : Bay) : OrderKind → State
  | .lampCheck => s.beginLamp b .order
  | .faultRead => s.beginFault b .read .order
  | .faultReadErase => s.beginFault b .readErase .order
  | .cancelHeat => s.endSession b .cancelled
  | .cancelChecks => (s.orderlyStop b .lamp false).orderlyStop b .fault false
  | .releaseContactor => s.maintenanceRelease b
  | .unknown => s

/-- A taken order is refused or carried out (R47, R48). -/
def State.testOrder (s : State) (b : Bay) (w : Word) : State :=
  match firstFailing (s.orderTests b (orderKind w)) with
  | some r => s.raise .orderRefused (some b) r.code (orderSeq w)
  | none => s.carryOut b (orderKind w)

/-- An order word handed on: equal sequences end the handling, others are taken (R46). -/
def State.takeOrder (s : State) (b : Bay) (w : Word) : State :=
  if vget s.orderSeqs b == some (orderSeq w) then s
  else { s with orderSeqs := vset s.orderSeqs b (some (orderSeq w)) }.testOrder b w

/-! ### Staging (R33, R37) -/

/-- Merge the enabled bytes of a capture write into staging (R33). Words of other areas have no staging. -/
def State.stage (s : State) (a : Area) (data : Word) (en : BitVec 4) : State :=
  let c := s.cap
  match a with
  | .settings k => { s with cap := { c with settings := vset c.settings k (mergeWord (vget c.settings k) data en) } }
  | .clockSet k => { s with cap := { c with clockSet := vset c.clockSet k (mergeWord (vget c.clockSet k) data en) } }
  | .trim => { s with cap := { c with trim := mergeWord c.trim data en } }
  | .progress => { s with cap := { c with progress := mergeWord c.progress data en } }
  | .ack k => { s with cap := { c with ack := vset c.ack k (mergeWord (vget c.ack k) data en) } }
  | .classRow i k =>
    { s with cap := { c with classes := vset c.classes i (vset (vget c.classes i) k (mergeWord (vget (vget c.classes i) k) data en)) } }
  | .planRow b k =>
    { s with cap := { c with plans := vset c.plans b (vset (vget c.plans b) k (mergeWord (vget (vget c.plans b) k) data en)) } }
  | .order b => { s with cap := { c with orders := vset c.orders b (mergeWord (vget c.orders b) data en) } }
  | .clockRow _ | .ringHeader _ | .request _ | .check _ | .statusRow _ _ | .faultBlock _ _ | .ring | .pass => s

/-- What an accepted write to a staged word does beyond staging: a check word tests its record, a single word is handed on (R35, R37, R50). -/
def State.handOn (s : State) : Area → State
  | .settings k => if k == 15 then s.commitSettings else s
  | .clockSet k => if k == 2 then s.commitClockSet else s
  | .trim => s.clockTrim
  | .progress => s.progress s.cap.progress
  | .ack k => if k == 2 then s.commitAck else s
  | .classRow i k => if k == 7 then s.commitClass i else s
  | .planRow b k => if k == 7 then s.commitPlan b else s
  | .order b => s.takeOrder b (vget s.cap.orders b)
  | .clockRow _ | .ringHeader _ | .request _ | .check _ | .statusRow _ _ | .faultBlock _ _ | .ring | .pass => s

/-- An accepted write to a CAPTURE area reaches the Capture Unit (R7, R33). -/
def State.capture (s : State) (a : Area) (data : Word) (en : BitVec 4) : State := (s.stage a data en).handOn a

end Sys2Proof.Machine
end

