-- ==== Sys2Proof/Machine/Rows.lean ====
section
/-! DEFINITION. The layouts of everything the SJ16 reports: bay status rows, fault blocks, event slots, the clock row and the ring header
(sections 12.1 and 12.3 to 12.5). -/

namespace Sys2Proof.Machine

open Sys2Proof.Config

/-- A packed word. -/
def packed (n : Nat) : Word := BitVec.ofNat 32 n

/-- A minute time with a field of its own in bits 30:27 (section 12.1). -/
def timeWord (t : Option Nat) (field : Nat) : Word :=
  packed ((match t with | some m => 2 ^ 31 + m % 2 ^ 27 | none => 0) + field * 2 ^ 27)

/-- The plan copy's fields, or 0 while it is absent (R214). -/
def BayRec.planField (r : BayRec) (f : PlanRow → Nat) : Nat := match r.plan with | some p => f p | none => 0

/-- Status word 0: lines, contactor, outputs, flags, class index and run number. -/
def State.row0 (s : State) (b : Bay) : Word :=
  let r := s.bay b
  let c := s.ctr b
  packed (r.assignment.code + flagAt (s.occupied b) 2 + flagAt (s.plugged b) 3 + flagAt (s.looped b) 4 + c.state.code * 2 ^ 5 +
    flagAt (s.fedBack b) 8 + flagAt c.heat 9 + flagAt c.lamp 10 + flagAt c.pilot 11 + flagAt r.proceed 12 + flagAt r.autoLamp 13 +
    flagAt r.autoFault 14 + r.planField (fun p => p.classIx.val) * 2 ^ 15 + r.planField PlanRow.run * 2 ^ 20)

/-- Status word 1: coach seen. -/
def State.row1 (s : State) (b : Bay) : Word :=
  match (s.bay b).seen with
  | some c => packed (c.id + c.code * 2 ^ 20)
  | none => 0

/-- The request under clearance, by a field; 0 while the clearance is NONE (section 12.3). -/
def Clearance.requestField (c : Clearance) (f : ClrRequest → Nat) : Nat := match c.request with | some q => f q | none => 0

/-- Status word 2: expected coach id and the run number of the request under clearance. -/
def State.row2 (s : State) (b : Bay) : Word :=
  packed ((s.bay b).planField PlanRow.coachId + (s.clearance b).requestField ClrRequest.run * 2 ^ 20)

/-- Status word 3: the claim record. -/
def State.row3 (s : State) (b : Bay) : Word :=
  let c := s.claim b
  let amount := match c.heat with | some h => h.amount | none => 0
  let urgent := match c.heat with | some h => h.urgent | none => false
  packed (c.standing.getD 0 + amount * 2 ^ 8 + c.lamp.getD 0 * 2 ^ 16 + flagAt c.standing.isSome 24 + flagAt c.heat.isSome 25 +
    flagAt c.lamp.isSome 26 + flagAt urgent 27)

/-- Status word 4: the session's state and minutes, and the last-taken request sequence. -/
def State.row4 (s : State) (b : Bay) : Word :=
  let x := s.session b
  let q := (s.clearance b).lastSeq
  packed (x.state.code + optCode HeatEnd.code x.ending * 2 ^ 3 + x.required * 2 ^ 6 + x.shown * 2 ^ 14 + q.getD 0 * 2 ^ 22 + flagAt q.isSome 30)

/-- Status words 5 and 6: ready-by with pause reasons and phase; start time with the session's flags. -/
def State.row5 (s : State) (b : Bay) : Word :=
  let x := s.session b
  timeWord x.readyBy (flagAt x.pauseShed 0 + flagAt x.pausePlug 1 + x.phase.code * 4)
def State.row6 (s : State) (b : Bay) : Word :=
  let x := s.session b
  timeWord x.start (flagAt x.late 0 + flagAt x.lateReported 1 + flagAt x.frozen 2)

/-- The link channel number a bay holds, 7 for none (section 12.3). -/
def State.linkNumber (s : State) (b : Bay) : Nat :=
  match (List.finRange 4).find? fun c => (s.link c).select == some b with
  | some c => c.val
  | none => 7

/-- The lamp channel number a bay holds, 3 for none (section 12.3). -/
def State.lampNumber (s : State) (b : Bay) : Nat :=
  match s.lampChOf b with
  | some c => c.val
  | none => 3

/-- The current group in GROUP_ON and GROUP_OFF, 0 otherwise (section 12.3). -/
def LampWork.groupShown (w : LampWork) : Nat :=
  match w.step, w.group with
  | some .groupOn, some g => g.val
  | some .groupOff, some g => g.val
  | _, _ => 0

/-- Status word 7: the two activities, their channels, the coach fault total and the worst ACTIVE severity. -/
def State.row7 (s : State) (b : Bay) : Word :=
  let l := s.act b .lamp
  let f := s.act b .fault
  let w := s.lampWorkOf b
  let m := s.summary b
  packed (l.stage.code + optCode Origin.code l.origin * 2 ^ 3 + f.stage.code * 2 ^ 5 + optCode Origin.code f.origin * 2 ^ 8 +
    flagAt (f.variant == .readErase) 10 + s.linkNumber b * 2 ^ 11 + s.lampNumber b * 2 ^ 14 + optCode LampStep.code w.step * 2 ^ 16 +
    w.groupShown * 2 ^ 19 + m.total.getD 127 * 2 ^ 22 + optCode Severity.code m.worst * 2 ^ 29)

/-- The findings bits of one group (section 12.3). -/
def findingBits : Option Finding → Nat
  | some f => flagAt f.dark 0 + flagAt f.cross 1 + flagAt f.stuck 2
  | none => 8

/-- Status word 8: lamp findings; zero while no result is judged (R214). -/
def State.row8 (s : State) (b : Bay) : Word :=
  match (s.lampResult b).findings with
  | some fs => packed (((List.finRange 8).map fun g => findingBits (vget fs g) * 16 ^ g.val).foldl (· + ·) 0)
  | none => 0

/-- Status words 9 to 15. -/
def State.row9 (s : State) (b : Bay) : Word :=
  let r := s.lampResult b
  timeWord (timeToMinute r.judgeTime) (optCode Judged.code r.judged + optCode Origin.code r.origin * 4)
def State.row10 (s : State) (b : Bay) : Word :=
  let r := s.lampResult b
  timeWord (timeToMinute r.outcomeTime) (optCode EndCode.code r.outcome)
def State.row11 (s : State) (b : Bay) : Word :=
  let m := s.summary b
  timeWord (timeToMinute m.completeTime) (optCode Variant.code m.variant + flagAt m.overflow 2 + flagAt m.eraseRefused 3)
def State.row12 (s : State) (b : Bay) : Word :=
  let m := s.summary b
  timeWord (timeToMinute m.outcomeTime) (optCode EndCode.code m.outcome)
def State.row13 (s : State) (b : Bay) : Word :=
  let c := s.clearance b
  timeWord (timeToMinute c.clearedTime) (c.state.code + c.requestField fun q => flagAt q.waiver 3)
def State.row14 (s : State) (b : Bay) : Word :=
  let c := s.clearance b
  timeWord (timeToMinute c.outcomeTime) (optCode ClrOutcome.code c.outcome)
def State.row15 (s : State) (b : Bay) : Word :=
  let c := s.clearance b
  packed (c.failing.toNat % 2 ^ 11 + c.reasons.toNat * 2 ^ 11 + (s.summary b).count * 2 ^ 26)

/-- The sixteen words of a bay status row (section 12.3). -/
def State.statusRow (s : State) (b : Bay) : List Word :=
  [s.row0 b, s.row1 b, s.row2 b, s.row3 b, s.row4 b, s.row5 b, s.row6 b, s.row7 b, s.row8 b, s.row9 b, s.row10 b, s.row11 b,
   s.row12 b, s.row13 b, s.row14 b, s.row15 b]

/-- The two words of a slot in a fault block (section 12.3). -/
def slotWords : Option Slot → List Word
  | some x => [packed (x.code * 2 ^ 16 + x.count * 2 ^ 8 + x.severity.code * 2 ^ 6 + flagAt x.active 5), timeWord (timeToMinute x.time) 0]
  | none => [0, 0]

/-- The sixteen words of a fault block (section 12.3). -/
def State.faultBlock (s : State) (b : Bay) : List Word :=
  ((List.finRange 8).map fun k => slotWords (vget (s.table b).slots k)).flatten

/-- The four words of an event slot (section 12.4). -/
def EventRec.words (e : EventRec) : List Word :=
  let bay := match e.bay with | some b => b.val | none => 0
  let day := match e.time with | some t => t.day | none => 0
  let sec := match e.time with | some t => t.sec | none => 0
  [e.stamp, packed (e.kind.code + e.kind.cause.val * 2 ^ 8 + bay * 2 ^ 12 + e.detail.toNat * 2 ^ 16),
   packed (day + e.seq.toNat * 2 ^ 16), packed (sec + flagAt e.bay.isSome 30 + flagAt e.time.isSome 31)]

/-- The clock row (R64, section 12.5). -/
def State.clockWord (s : State) (w : Nat) : Word :=
  match w with
  | 0 => packed (flagAt s.clock.valid 31 + s.clock.day * 1440 + s.clock.sec / 60)
  | 1 => packed s.clock.day
  | 2 => packed s.clock.sec
  | _ => packed s.milliseconds

/-- The ring header (R109, R210, section 12.5). -/
def State.ringWord (s : State) (w : Nat) : Word :=
  match w with
  | 0 => packed (s.ev.producer.toNat * 2 ^ 16 + s.ev.consumer.toNat)
  | 1 => s.ev.missed
  | 2 => packed (s.ev.epoch.toNat + s.hb.state.code * 2 ^ 16)
  | 3 => packed (s.att.latches.toNat + s.settings.mask.toNat * 2 ^ 16)
  | 4 => packed s.settings.target
  | 5 => packed s.effective
  | 6 => packed s.granted
  | _ => 0

end Sys2Proof.Machine
end

