-- ==== Sys2Proof/Machine/Path.lean ====
section
/-! DEFINITION. The Path Unit, the Posting Engine and the Port Arbiter (R1 to R27). -/

namespace Sys2Proof.Machine

open Sys2Proof.Config

/-! ### Postings (R23, R25) -/

/-- The region offset at which a posting begins (R4, R204). -/
def State.targetOffset (s : State) : Target → Nat
  | .row p => 0x1000 + 0x40 * p.val
  | .event => 0x2000 + 0x10 * (s.ev.producer.toNat % ringSlots)

/-- The words of a posting (R26). -/
def Target.size : Target → Nat
  | .row _ => 16
  | .event => 4

/-- The word lies in the posting that is in posting (R23). -/
def State.inPosting (s : State) (w : BitVec 24) : Bool :=
  match s.post.sel with
  | some p => inRegion s.path.base w && within (offsetOf w) (s.targetOffset p.target) (s.targetOffset p.target + 4 * p.target.size - 1)
  | none => false

/-- The Posting Engine holds the Memory Port: a burst is under way (R26). -/
def State.engineHolds (s : State) : Bool := s.post.sel.any fun p => p.burst.isSome

/-- The Posting Engine waits for the port (R27). -/
def State.engineWaits (s : State) : Bool := s.post.sel.any fun p => p.burst.isNone

/-! ### What the Memory Port may do next (R12, R13, R15, R27, R29) -/

/-- The Write Queue holds an entry for the word (R13). -/
def State.queued (s : State) (w : BitVec 24) : Bool := s.path.queue.any fun e => e.word == w

/-- A fill read of the entry is due, apart from the port (R15). -/
def State.fillDue (s : State) (e : DEntry) : Bool := e.state == .pending && !s.queued e.word && !s.inPosting e.word

/-- The processor stream's next transaction: a through read, the oldest due fill read, the oldest queue entry (R13, R15). -/
def State.streamTxn (s : State) : Option Txn :=
  match s.path.port with
  | .waiting _ => some .through
  | .idle | .retry | .done | .doneRead _ _ =>
    match s.path.delayed.find? s.fillDue with
    | some e => some (.fill e.word false)
    | none => if s.path.queue.isEmpty then none else some .drain

/-- The port is to pass to the waiting Posting Engine (R27). -/
def State.grantDue (s : State) : Bool :=
  s.engineWaits && s.path.reload.isNone && (decide (s.settings.fairness ≤ s.path.fair) || s.streamTxn.isNone)

/-- The single-word transaction that may begin next (R27, R29). -/
def State.nextTxn (s : State) : Option Txn :=
  if s.engineHolds || s.grantDue then none
  else match s.path.reload with
    | some r => if r.madeLast then (match s.streamTxn with | some t => some t | none => some .reload) else some .reload
    | none => s.streamTxn

/-- The transaction may be completing: it has begun, or it may begin now (log 8). -/
def State.completing (s : State) (t : Txn) : Bool := s.path.begun == some t || s.nextTxn == some t

/-- The next transaction may have begun (log 8). -/
def State.beginTxn (s : State) : State :=
  if s.path.begun.isSome then s else { s with path := { s.path with begun := s.nextTxn } }

/-- A Memory Port transaction has completed: the fairness counter, the reload's turn, the next transaction (R27, R29). -/
def State.txnDone (s : State) (byReload : Bool) : State :=
  let p := { s.path with
    begun := none,
    fair := if s.engineWaits && !byReload then s.path.fair + 1 else s.path.fair,
    reload := s.path.reload.map fun r => { r with madeLast := byReload } }
  { s with path := p }.beginTxn

/-! ### Delayed Read Table and snapshot holds (R14 to R18, R22) -/

/-- The table's entry for a word (R14). -/
def State.delayedEntry (s : State) (w : BitVec 24) : Option DEntry := s.path.delayed.find? fun e => e.word == w

/-- A fill read under way of a freed entry has its data discarded (R15). -/
def freeBegun (t : Option Txn) (w : BitVec 24) : Option Txn :=
  match t with
  | some (.fill v f) => some (.fill v (f || v == w))
  | some .through => some .through
  | some .drain => some .drain
  | some .reload => some .reload
  | none => none

/-- Free the entry of a word (R16 to R18). -/
def State.freeEntry (s : State) (w : BitVec 24) : State :=
  { s with path := { s.path with delayed := s.path.delayed.filter fun e => e.word != w, begun := freeBegun s.path.begun w } }

/-- The bay that owns a word, where it has one (R8, R10, R17). -/
def State.ownerBay (s : State) (w : BitVec 24) : Option Bay :=
  if inRegion s.path.base w then (areaOf (offsetOf w)).bay else none

/-- A read of a word answered DONE acts on the snapshot hold of a status row (R22). -/
def State.snapshot (s : State) (w : BitVec 24) : State :=
  if inRegion s.path.base w then
    match areaOf (offsetOf w) with
    | .statusRow b 0 => { s with path := { s.path with holds := vset s.path.holds b (some (s.timeBase + snapshotLimit)) } }
    | .statusRow b 15 => { s with path := { s.path with holds := vset s.path.holds b none } }
    | _ => s
  else s

/-- A memory read is answered DONE (R1, R22). -/
def State.answerRead (s : State) (w : BitVec 24) (data : Word) (par : BitVec 4) : State := (s.snapshot w).answer (.doneRead data par)

/-- An entry for the word takes a retry count (R16). -/
def DEntry.counted (e : DEntry) (w : BitVec 24) (n : Nat) : DEntry := if e.word == w then { e with count := n } else e

/-- The table with a retry count for a word's entry (R16). -/
def Path.counted (p : Path) (w : BitVec 24) (n : Nat) : Path := { p with delayed := p.delayed.map fun e => e.counted w n }

/-- The table with a new PENDING entry (R14). -/
def Path.delay (p : Path) (w : BitVec 24) : Path := { p with delayed := p.delayed ++ [⟨w, .pending, 0⟩] }

/-- A repeat of a read whose word has an entry (R16). -/
def State.repeatRead (s : State) (e : DEntry) : State :=
  match e.state with
  | .ready data par _ => (s.freeEntry e.word).answerRead e.word data par
  | .pending =>
    let n := e.count + 1
    if s.settings.retry ≤ n then
      ((s.freeEntry e.word).raise .readStarved (s.ownerBay e.word) (eventAddr e.word)).answer .retry
    else
      { s with path := s.path.counted e.word n }.answer .retry

/-- One of the three delay conditions holds (R13). -/
def State.delays (s : State) (w : BitVec 24) : Bool := s.queued w || s.engineHolds || s.inPosting w

/-- A memory read without an entry (R13, R14). -/
def State.freshMemoryRead (s : State) (w : BitVec 24) : State :=
  if s.delays w then
    if s.path.delayed.length < delayedCapacity then
      { s with path := s.path.delay w }.answer .retry
    else s.answer .retry
  else s.answer (.waiting w)

/-- A memory read (R13, R16). -/
def State.memoryRead (s : State) (w : BitVec 24) : State :=
  match s.delayedEntry w with
  | some e => s.repeatRead e
  | none => s.freshMemoryRead w

/-- A read answered from live state with generated parity (R9). -/
def State.served (s : State) (data : Word) : State := s.answer (.doneRead data (parityOf data))

/-- A region read after the reload (R5, R9). -/
def State.regionRead (s : State) (w : BitVec 24) : State :=
  match areaOf (offsetOf w) with
  | .clockRow k => s.served (s.clockWord k)
  | .ringHeader k => s.served (s.ringWord k)
  | .settings _ | .clockSet _ | .trim | .progress | .ack _ | .classRow _ _ | .planRow _ _ | .order _ | .request _ | .check _
  | .statusRow _ _ | .faultBlock _ _ | .ring | .pass => s.memoryRead w

/-- The port waits for the memory read of a transaction (R1). -/
def Port.busy : Port → Bool
  | .waiting _ => true
  | .idle | .retry | .done | .doneRead _ _ => false

/-- A Processor Port read arrives (R5, R6, R13; log 9). -/
def State.processorReads (s : State) (addr : BitVec 26) : State :=
  if s.path.port.busy then s
  else
    let w := wordAddr addr
    let s1 := if !inRegion s.path.base w then s.memoryRead w
              else if s.path.reload.isSome then s.answer .retry
              else s.regionRead w
    s1.beginTxn

/-! ### Writes (R5 to R12, R18, R20, R21) -/

/-- The queue with one more entry (R11). -/
def Path.pushed (p : Path) (e : QEntry) : Path := { p with queue := p.queue ++ [e] }

/-- One word enters the Write Queue, and frees a delayed read of its word (R11, R18). -/
def State.enqueue (s : State) (w : BitVec 24) (data : Word) (en par : BitVec 4) : State :=
  let s1 := s.freeEntry w
  { s1 with path := s1.path.pushed ⟨w, data, en, par⟩ }

/-- The Write Queue has at least `n` free entries (R11). -/
def State.freeEntries (s : State) (n : Nat) : Bool := decide (s.path.queue.length + n ≤ queueCapacity)

/-- A single write offered to the queue: accepted and answered DONE, or answered RETRY (R6, R7, R11). -/
def State.offer (s : State) (w : BitVec 24) (bw : BusWrite) : State :=
  if s.freeEntries 1 then (s.enqueue w bw.data bw.enables bw.parity).answer .done else s.answer .retry

/-- A write to a CAPTURE word: with room it also reaches the Capture Unit (R7). -/
def State.offerCapture (s : State) (w : BitVec 24) (bw : BusWrite) : State :=
  if s.freeEntries 1 then
    ((s.enqueue w bw.data bw.enables bw.parity).answer .done).capture (areaOf (offsetOf w)) bw.data bw.enables
  else s.answer .retry

/-- A write to a request word merges into the bay's held slot (R20). -/
def State.holdRequest (s : State) (b : Bay) (bw : BusWrite) : State :=
  let old := (vget s.path.held b).getD 0
  { s with path := { s.path with held := vset s.path.held b (some (mergeWord old bw.data bw.enables)) } }.answer .done

/-- Empty a bay's held slot (R20, R21). -/
def State.emptySlot (s : State) (b : Bay) : State := { s with path := { s.path with held := vset s.path.held b none } }

/-- The region offset of a bay's request word; its check word follows (R4). -/
def requestOffset (b : Bay) : Nat := 0x880 + 8 * b.val

/-- A passing pair enters the queue, and the Capture and Clearance Units are handed the request (R21 step 5, R53). -/
def State.pairEnters (s : State) (b : Bay) (req chk : Word) (r : ClearRow) : State :=
  let base := s.path.base
  let s1 := s.enqueue (wordAddr (regionAddr base (requestOffset b))) req 15 (parityOf req)
  let s2 := (s1.enqueue (wordAddr (regionAddr base (requestOffset b + 4))) chk 15 (parityOf chk)).answer .done
  { s2.emptySlot b with clearanceCopies := vset s2.clearanceCopies b (some r) }.takeRequest b r

/-- A write to a check word (R21). -/
def State.checkWrite (s : State) (b : Bay) (bw : BusWrite) : State :=
  let chk := mergeWord 0 bw.data bw.enables
  match vget s.path.held b with
  | none => (s.rejectRow (some b) (requestOffset b + 4)).answer .done
  | some req =>
    match decodeClearance req chk with
    | none => ((s.emptySlot b).rejectRow (some b) (requestOffset b + 4)).answer .done
    | some r => if s.freeEntries 2 then s.pairEnters b req chk r else s.answer .retry

/-- A write that is answered DONE and dropped with an event (R8, R10). -/
def State.dropWrite (s : State) (k : Kind) (w : BitVec 24) : State := (s.raise k (s.ownerBay w) (eventAddr w)).answer .done

/-- The bay of a refused write: the row's for a status row or a fault block, absent for the ring and the SERVED rows (R8). -/
def State.regionWrite (s : State) (w : BitVec 24) (bw : BusWrite) : State :=
  match areaOf (offsetOf w) with
  | .pass => s.offer w bw
  | .request b => s.holdRequest b bw
  | .check b => s.checkWrite b bw
  | .clockRow _ | .ringHeader _ | .statusRow _ _ | .faultBlock _ _ | .ring => s.dropWrite .writeRefused w
  | .settings _ | .clockSet _ | .trim | .progress | .ack _ | .classRow _ _ | .planRow _ _ | .order _ => s.offerCapture w bw

/-- A Processor Port write arrives (R1, R5, R6, R10; log 9, log 14, log 23). -/
def State.processorWrites (s : State) (addr : BitVec 26) (bw : BusWrite) : State :=
  if s.path.port.busy then s
  else
    let w := wordAddr addr
    let s1 :=
      if !inRegion s.path.base w then (if bw.enables == 0 then s.answer .done else s.offer w bw)
      else if s.path.reload.isSome then s.answer .retry
      else if bw.enables == 0 then s.answer .done
      else if parityError bw then s.dropWrite .parityDropped w
      else s.regionWrite w bw
    s1.beginTxn

/-! ### Memory Port completions (R12, R13, R15) -/

/-- A through read completes (R13). -/
def State.throughDone (s : State) : State :=
  match s.path.port with
  | .waiting w =>
    if s.completing .through then (s.answerRead w (s.mem.word w) (s.mem.wordParity w)).txnDone false else s
  | .idle | .retry | .done | .doneRead _ _ => s

/-- The fill read that may be completing (R15). -/
def State.fillInHand (s : State) : Option (BitVec 24 × Bool) :=
  match s.path.begun with
  | some (.fill w f) => some (w, f)
  | some .through | some .drain | some .reload | none =>
    match s.nextTxn with
    | some (.fill w f) => some (w, f)
    | some .through | some .drain | some .reload | none => none

/-- The table with the PENDING entry of a word filled (R15). -/
def Path.filled (p : Path) (w : BitVec 24) (data : Word) (par : BitVec 4) (due : Nat) : Path :=
  { p with delayed := p.delayed.map fun e => if e.word == w && e.state == .pending then { e with state := .ready data par due } else e }

/-- A fill read completes: its entry becomes READY, or its data is discarded (R15). -/
def State.fillDone (s : State) : State :=
  match s.fillInHand with
  | some (w, freed) =>
    (if freed then s else { s with path := s.path.filled w (s.mem.word w) (s.mem.wordParity w) (s.timeBase + s.settings.discard * 5) }).txnDone false
  | none => s

/-- The oldest queue entry reaches memory and leaves the queue (R12). -/
def State.drainHead (s : State) : State :=
  match s.path.queue with
  | e :: rest => { s with mem := s.mem.setWord e.word e.data e.enables e.parity, path := { s.path with queue := rest } }
  | [] => s

/-- A queue drain completes (R12). -/
def State.drainDone (s : State) : State := if s.completing .drain then s.drainHead.txnDone false else s

/-- A READY entry's discard timer expires (R17). -/
def State.discard (s : State) (w : BitVec 24) : State :=
  match s.delayedEntry w with
  | some e => match e.state with
    | .ready _ _ due => (((s.advanceTo due).freeEntry w).raise .readDiscarded (s.ownerBay w) (eventAddr w)).beginTxn
    | .pending => s
  | none => s

/-- A snapshot hold's limit expires (R22). -/
def State.snapshotOver (s : State) (b : Bay) : State :=
  match vget s.path.holds b with
  | some due => let s1 := s.advanceTo due
    { s1 with path := { s1.path with holds := vset s1.path.holds b none } }
  | none => s

/-! ### The Posting Engine (R24 to R27) -/

/-- A row position may be posted: dirty, and not a status row under snapshot hold (R22, R25). -/
def State.eligible (s : State) (p : Fin 32) : Bool :=
  vget s.post.dirty p && (if h : p.val < 16 then (vget s.path.holds ⟨p.val, h⟩).isNone else true)

/-- The first eligible position in rotating order after the last one posted (R25). -/
def State.nextRow (s : State) : Option (Fin 32) :=
  ((List.finRange 32).map fun k => s.post.lastRow + 1 + k).find? s.eligible

/-- The event stream has work (R25, R204). -/
def State.eventWork (s : State) : Bool := !s.ev.buffer.isEmpty && decide ((s.ev.producer - s.ev.consumer).toNat < ringSlots)

/-- What the engine selects (R25). -/
def State.selection (s : State) : Option Target :=
  match s.nextRow, s.eventWork with
  | some p, true => if s.post.lastStream == .row then some .event else some (.row p)
  | some p, false => some (.row p)
  | none, true => some .event
  | none, false => none

/-- A position leaves the dirty set when it is selected (R24). -/
def Target.clean (d : Vector Bool 32) : Target → Vector Bool 32
  | .row p => vset d p false
  | .event => d

/-- The Posting Engine selects a posting (R25, R27). -/
def State.select (s : State) : State :=
  if s.post.sel.isSome || s.path.reload.isSome then s
  else match s.selection with
    | some t => { s with post := { s.post with sel := some ⟨t, none⟩, dirty := t.clean s.post.dirty }, path := { s.path with fair := 0 } }
    | none => s

/-- The content of a posting, taken from its owner at the grant (R26). -/
def State.image (s : State) : Target → List Word
  | .row p => if h : p.val < 16 then s.statusRow ⟨p.val, h⟩ else s.faultBlock ⟨p.val - 16, by omega⟩
  | .event => match s.ev.buffer with
    | e :: _ => e.words
    | [] => []

/-- The port is granted to the Posting Engine (R26, R27). -/
def State.grantPort (s : State) : State :=
  match s.post.sel with
  | some p =>
    if s.grantDue then
      { s with post := { s.post with sel := some ⟨p.target, some ⟨s.image p.target, 0⟩⟩ }, path := { s.path with begun := none } }
    else s
  | none => s

/-- A READY entry over which a burst word is written takes that word (R26). -/
def DEntry.posted (e : DEntry) (w : BitVec 24) (data : Word) : DEntry :=
  match e.state with
  | .ready _ _ due => if e.word == w then { e with state := .ready data (parityOf data) due } else e
  | .pending => e

/-- One burst word reaches memory, with all bytes enabled and generated parity (R2, R26). -/
def State.burstWord (s : State) (offset : Nat) (data : Word) : State :=
  let w := wordAddr (regionAddr s.path.base offset)
  { s with mem := s.mem.setWord w data 15 (parityOf data),
           path := { s.path with delayed := s.path.delayed.map fun e => e.posted w data } }

/-- Consecutive burst words from an offset on (R2). -/
def State.burstWords (s : State) (offset : Nat) : List Word → State
  | [] => s
  | d :: rest => (s.burstWord offset d).burstWords (offset + 4) rest

/-- A burst under way has written its first `n` words at least (R26, log 10). -/
def State.burstTo (s : State) (n : Nat) : State :=
  match s.post.sel with
  | some ⟨t, some bu⟩ =>
    let s1 := s.burstWords (s.targetOffset t + 4 * bu.written) ((bu.image.take n).drop bu.written)
    { s1 with post := { s1.post with sel := some ⟨t, some { bu with written := max bu.written (min n bu.image.length) }⟩ } }
  | some ⟨_, none⟩ => s
  | none => s

/-- A posting's completion at its owner: an event leaves the buffer, the producer index advances, and the stream and the row are recorded
(R26, R203, R204). It is posted even where a progress write has since moved the consumer index back to 256 behind the producer index (DESIGN CHOICE,
log 44). -/
def State.posted (s : State) : Target → State
  | .row p => { s with post := { s.post with sel := none, lastRow := p, lastStream := .row } }
  | .event =>
    { s with post := { s.post with sel := none, lastStream := .event },
             ev := { s.ev with buffer := s.ev.buffer.tail, producer := s.ev.producer + 1 } }

/-- A posting burst completes (R26). -/
def State.burstDone (s : State) : State :=
  match s.post.sel with
  | some ⟨t, some bu⟩ => ((s.burstTo bu.image.length).posted t).beginTxn
  | some ⟨_, none⟩ => s
  | none => s

end Sys2Proof.Machine
end

