-- ==== Sys2Proof/Machine/Resets.lean ====
section
/-! DEFINITION. The two resets, the start-up reload and its end steps (R28 to R31, R54, R65, R66, R90, R110, R129, R150, R206, R212). -/

namespace Sys2Proof.Machine

open Sys2Proof.Config

/-! ### The ports at a reset (R2, R28) -/

/-- The single-word transaction that is under way if one is: the one that has begun, else the next one (log 8). -/
def State.txnUnderWay (s : State) : Option Txn :=
  match s.path.begun with
  | some t => some t
  | none => s.nextTxn

/-- A single-word transaction under way completes: a drain's word reaches memory, read data is discarded (R28). -/
def State.finishTxn (s : State) (underWay : Bool) : State :=
  if underWay && s.txnUnderWay == some .drain then s.drainHead else s

/-- The memory as a reset leaves it (R2, R28; log 7, log 10). -/
def State.memoryAtReset (s : State) (r : AtReset) : Memory := ((s.finishTxn r.underWay).burstTo r.burstWords).mem

/-- A Processor Port transaction not yet answered is answered RETRY (R28). -/
def Port.atReset : Port → Port
  | .waiting _ => .retry
  | .idle => .idle
  | .retry => .retry
  | .done => .done
  | .doneRead d p => .doneRead d p

/-- A pin level outlives a reset; its taken value and settle timer do not (R66, log 12). -/
def LineState.atReset (l : LineState) : LineState := { level := l.level }

def BayLines.atReset (l : BayLines) : BayLines :=
  { presence := l.presence.atReset, plug := l.plug.atReset, loop := l.loop.atReset, feedback := l.feedback.atReset }

/-- What both resets leave: every block at its reset value; the memory, the pins, the sensing heads, the waiting commands and the
sampled straps stay (R28, R54, R66, R110, R129, R150, R206, R212). -/
def State.cleared (s : State) (r : AtReset) : State :=
  { pending := s.pending, mem := s.memoryAtReset r,
    path := { base := r.straps, port := s.path.port.atReset },
    lines := s.lines.map BayLines.atReset, hold := s.hold.atReset, heads := s.heads }

/-- Power-on: time base, clock and epoch begin again, and the end steps run at once (R28, R31, R65). -/
def State.powersOn (s : State) (r : AtReset) : State := (s.cleared r).endSteps

/-- The reset line: time base and clock go on, the epoch advances, and the start-up reload runs (R28, R65, R206). -/
def State.resets (s : State) (r : AtReset) : State :=
  let s1 := s.cleared r
  { s1 with timeBase := s.timeBase, clock := s.clock, ev := { epoch := s.ev.epoch + 1 },
            path := { s1.path with reload := some {}, begun := some .reload } }

/-! ### The start-up reload (R29, R30) -/

/-- The word is the last of its record (R30). -/
def Area.last : Area → Bool
  | .settings k => k == 15
  | .classRow _ k => k == 7
  | .planRow _ k => k == 7
  | .order _ | .check _ => true
  | .clockSet _ | .trim | .progress | .ack _ | .clockRow _ | .ringHeader _ | .request _ | .statusRow _ _ | .faultBlock _ _ | .ring
  | .pass => false

/-- A clearance pair committed by the reload: the copy and the request's sequence, without vetting (R30). -/
def State.reloadRequest (s : State) (b : Bay) (req chk : Word) : State :=
  match decodeClearance req chk with
  | some r =>
    { s with clearanceCopies := vset s.clearanceCopies b (some r) }.setClearance b { s.clearance b with lastSeq := some r.seq }
  | none => s

/-- The sequence of an order word read with good parity counts as taken (R30, R46). -/
def State.reloadOrder (s : State) (b : Bay) (w : Word) : State := { s with orderSeqs := vset s.orderSeqs b (some (orderSeq w)) }

/-- A record's last word has been read with good parity on the whole record: it is committed if it passes (R30). -/
def State.reloadCommit (s : State) (first w : Word) : Area → State
  | .settings _ => s.commitSettings
  | .classRow c _ => s.commitClass c
  | .planRow b _ => s.commitPlan b
  | .order b => s.reloadOrder b w
  | .check b => s.reloadRequest b first w
  | .clockSet _ | .trim | .progress | .ack _ | .clockRow _ | .ringHeader _ | .request _ | .statusRow _ _ | .faultBlock _ _ | .ring
  | .pass => s

/-- The reload goes on to the next word, or ends (R29, R31). -/
def Reload.after (r : Reload) (a : Area) (w : Word) (ok : Bool) : Option Reload :=
  if r.next + 1 < reloadWords then
    some { r with next := r.next + 1, parityOk := a.last || ok, first := w }
  else none

/-- A reload word arrives: staged as read, and its record committed at the last word if its parity was good (R30). -/
def State.reloadWord (s : State) (r : Reload) (w : Word) (par : BitVec 4) : State :=
  let a := areaOf (reloadOffset r.next)
  let ok := r.parityOk && par == parityOf w
  let s1 := s.stage a w 15
  if a.last && ok then s1.reloadCommit r.first w a else s1

/-- A reload read completes; after the last one the reload ends and the end steps run (R29 to R31). -/
def State.reloadDone (s : State) : State :=
  match s.path.reload with
  | some r =>
    if s.completing .reload then
      let a := wordAddr (regionAddr s.path.base (reloadOffset r.next))
      let w := s.mem.word a
      let par := s.mem.wordParity a
      let s1 := s.reloadWord r w par
      let s2 := { s1 with path := { s1.path with
        reload := r.after (areaOf (reloadOffset r.next)) w (r.parityOk && par == parityOf w) } }
      let s3 := s2.txnDone true
      if s3.path.reload.isNone then s3.endSteps else s3
    else s
  | none => s

end Sys2Proof.Machine
end

