-- ==== Sys2Proof/Machine/PathCommands.lean ====
section
/-! DEFINITION. The meanings of the resets, the reload, the memory path and the posting commands. -/

namespace Sys2Proof.Machine

/-- The answer of every command: the next state, with everything the command asked for carried out (log 15). -/
def done (s : State) : Host.Outcome State Fault Refusal := .next s.settle

/-- POWER_ON (R28). -/
def execPowerOn (r : AtReset) (s : State) : Host.Outcome State Fault Refusal := done (s.powersOn r)

/-- RESET_LINE (R28). -/
def execResetLine (r : AtReset) (s : State) : Host.Outcome State Fault Refusal := done (s.resets r)

/-- RELOAD_READ_COMPLETE (R30). -/
def execReloadReadComplete (s : State) : Host.Outcome State Fault Refusal := done s.reloadDone

/-- MEMORY_WRITE (R6, R7): a write anywhere, handled by where it arrives (log 23). -/
def execMemoryWrite (addr : BitVec 26) (w : BusWrite) (s : State) : Host.Outcome State Fault Refusal := done (s.processorWrites addr w)

/-- POSTED_AREA_WRITE (R8). -/
def execPostedAreaWrite (addr : BitVec 26) (w : BusWrite) (s : State) : Host.Outcome State Fault Refusal :=
  done (s.processorWrites addr w)

/-- PROCESSOR_READ (R13); `n` words of a burst under way have been written when it arrives (log 10). -/
def execProcessorRead (addr : BitVec 26) (n : Nat) (s : State) : Host.Outcome State Fault Refusal :=
  done ((s.burstTo n).processorReads addr)

/-- THROUGH_READ_COMPLETE (R13). -/
def execThroughReadComplete (s : State) : Host.Outcome State Fault Refusal := done s.throughDone

/-- FILL_READ_COMPLETE (R15). -/
def execFillReadComplete (s : State) : Host.Outcome State Fault Refusal := done s.fillDone

/-- QUEUE_DRAIN_COMPLETE (R12). -/
def execQueueDrainComplete (s : State) : Host.Outcome State Fault Refusal := done s.drainDone

/-- DISCARD_TIMER_EXPIRY (R17). -/
def execDiscardTimerExpiry (word : BitVec 24) (s : State) : Host.Outcome State Fault Refusal := done (s.discard word)

/-- SNAPSHOT_LIMIT_EXPIRY (R22). -/
def execSnapshotLimitExpiry (b : Bay) (s : State) : Host.Outcome State Fault Refusal := done (s.snapshotOver b)

/-- POSTING_SELECT (R25). -/
def execPostingSelect (s : State) : Host.Outcome State Fault Refusal := done s.select

/-- POSTING_GRANT (R26). -/
def execPostingGrant (s : State) : Host.Outcome State Fault Refusal := done s.grantPort

/-- POSTING_BURST_COMPLETE (R26). -/
def execPostingBurstComplete (s : State) : Host.Outcome State Fault Refusal := done s.burstDone

end Sys2Proof.Machine
end

