-- ==== Sys2Proof/Machine/RecordCommands.lean ====
section
/-! DEFINITION. The meanings of the writes that carry records, orders, progress and clearance requests, and of the clock's second. -/

namespace Sys2Proof.Machine

/-- A Processor Port write at an offset of the Depot Region (R4, R5). -/
def State.writeAt (s : State) (offset : Nat) (w : BusWrite) : State := s.processorWrites (regionAddr s.path.base offset) w

/-- Offset of a class row's check word (R4). -/
def classCheckOffset (c : ClassIx) : Nat := 0x21C + 0x20 * c.val

/-- Offset of a plan row's check word (R4). -/
def planCheckOffset (b : Bay) : Nat := 0x61C + 0x20 * b.val

/-- Offset of an order word (R4). -/
def orderOffset (b : Bay) : Nat := 0x800 + 4 * b.val

/-- SETTINGS_COMMIT (R39): a write to the settings check word. -/
def execSettingsCommit (w : BusWrite) (s : State) : Host.Outcome State Fault Refusal := done (s.writeAt 0x3C w)

/-- CLOCK_SET_COMMIT (R58): a write to the clock-set check word. -/
def execClockSetCommit (w : BusWrite) (s : State) : Host.Outcome State Fault Refusal := done (s.writeAt 0x48 w)

/-- CLOCK_TRIM (R59): a write to the clock trim word. -/
def execClockTrim (w : BusWrite) (s : State) : Host.Outcome State Fault Refusal := done (s.writeAt 0x4C w)

/-- ACKNOWLEDGE_COMMIT (R208): a write to the acknowledge check word. -/
def execAcknowledgeCommit (w : BusWrite) (s : State) : Host.Outcome State Fault Refusal := done (s.writeAt 0x5C w)

/-- CLASS_COMMIT (R41): a write to a class row's check word. -/
def execClassCommit (c : ClassIx) (w : BusWrite) (s : State) : Host.Outcome State Fault Refusal := done (s.writeAt (classCheckOffset c) w)

/-- PLAN_COMMIT (R43): a write to a plan row's check word. -/
def execPlanCommit (b : Bay) (w : BusWrite) (s : State) : Host.Outcome State Fault Refusal := done (s.writeAt (planCheckOffset b) w)

/-- LAMP_CHECK (R168): a write to an order word. -/
def execLampCheck (b : Bay) (w : BusWrite) (s : State) : Host.Outcome State Fault Refusal := done (s.writeAt (orderOffset b) w)

/-- FAULT_READ (R154). -/
def execFaultRead (b : Bay) (w : BusWrite) (s : State) : Host.Outcome State Fault Refusal := done (s.writeAt (orderOffset b) w)

/-- FAULT_READ_ERASE (R154). -/
def execFaultReadErase (b : Bay) (w : BusWrite) (s : State) : Host.Outcome State Fault Refusal := done (s.writeAt (orderOffset b) w)

/-- CANCEL_HEAT (R125). -/
def execCancelHeat (b : Bay) (w : BusWrite) (s : State) : Host.Outcome State Fault Refusal := done (s.writeAt (orderOffset b) w)

/-- CANCEL_CHECKS (R148). -/
def execCancelChecks (b : Bay) (w : BusWrite) (s : State) : Host.Outcome State Fault Refusal := done (s.writeAt (orderOffset b) w)

/-- RELEASE_CONTACTOR (R83). -/
def execReleaseContactor (b : Bay) (w : BusWrite) (s : State) : Host.Outcome State Fault Refusal := done (s.writeAt (orderOffset b) w)

/-- ORDER_UNKNOWN_KIND (R47). -/
def execOrderUnknownKind (b : Bay) (w : BusWrite) (s : State) : Host.Outcome State Fault Refusal := done (s.writeAt (orderOffset b) w)

/-- PROGRESS_WRITE (R51): a write to the progress word. -/
def execProgressWrite (w : BusWrite) (s : State) : Host.Outcome State Fault Refusal := done (s.writeAt 0x50 w)

/-- CLEARANCE_REQUEST_WRITE (R20): a write to word 0 of a clearance row. -/
def execClearanceRequestWrite (b : Bay) (w : BusWrite) (s : State) : Host.Outcome State Fault Refusal :=
  done (s.writeAt (requestOffset b) w)

/-- CLEARANCE_CLEAR (R186): a write to the check word of a clearance row. -/
def execClearanceClear (b : Bay) (w : BusWrite) (s : State) : Host.Outcome State Fault Refusal :=
  done (s.writeAt (requestOffset b + 4) w)

/-- CLEARANCE_CANCEL (R195): a write to the check word of a clearance row. -/
def execClearanceCancel (b : Bay) (w : BusWrite) (s : State) : Host.Outcome State Fault Refusal :=
  done (s.writeAt (requestOffset b + 4) w)

/-- SECOND_ADVANCE (R55); an INVALID clock does not advance. -/
def execSecondAdvance (s : State) : Host.Outcome State Fault Refusal := done (if s.clock.valid then s.secondPasses else s)

end Sys2Proof.Machine
end

