-- ==== Sys2Proof/Machine/LineCommands.lean ====
section
/-! DEFINITION. The meanings of the bay lines, the yard hold, the contactor limits and the timers of supply and heat. -/

namespace Sys2Proof.Machine

open Sys2Proof.Config

/-- An expiry: nothing while the timer is stopped; else the time base is at the deadline at least, and the effect follows (log 1, log 2). -/
def State.expire (s : State) (t : Timer) (f : State → State) : State :=
  match t with
  | some due => f (s.advanceTo due)
  | none => s

/-- LINE_LEVEL_CHANGE (R68). -/
def execLineLevelChange (ln : Line) (lv : Bool) (s : State) : Host.Outcome State Fault Refusal := done (s.pinChange ln lv)

/-- PRESENCE_OCCUPIED (R72). -/
def execPresenceOccupied (b : Bay) (s : State) : Host.Outcome State Fault Refusal :=
  done (s.expire ((s.line b).presence.due true) fun u => u.presenceOn b)

/-- PRESENCE_EMPTY (R73). -/
def execPresenceEmpty (b : Bay) (s : State) : Host.Outcome State Fault Refusal :=
  done (s.expire ((s.line b).presence.due false) fun u => u.presenceOff b)

/-- PLUG_OUT (R84). -/
def execPlugOut (b : Bay) (s : State) : Host.Outcome State Fault Refusal :=
  done (s.expire ((s.line b).plug.due false) fun u => u.plugOff b)

/-- PLUG_IN (R85). -/
def execPlugIn (b : Bay) (s : State) : Host.Outcome State Fault Refusal :=
  done (s.expire ((s.line b).plug.due true) fun u => u.plugOn b)

/-- EXIT_LOOP_OCCUPIED (R74, R193). -/
def execExitLoopOccupied (b : Bay) (s : State) : Host.Outcome State Fault Refusal :=
  done (s.expire ((s.line b).loop.due true) fun u => u.loopOn b)

/-- EXIT_LOOP_FREE (R74, R193). -/
def execExitLoopFree (b : Bay) (s : State) : Host.Outcome State Fault Refusal :=
  done (s.expire ((s.line b).loop.due false) fun u => u.loopOff b)

/-- YARD_HOLD_ACTIVE (R75). -/
def execYardHoldActive (s : State) : Host.Outcome State Fault Refusal := done (s.expire (s.hold.due true) State.holdOn)

/-- YARD_HOLD_INACTIVE (R75). -/
def execYardHoldInactive (s : State) : Host.Outcome State Fault Refusal := done (s.expire (s.hold.due false) State.holdOff)

/-- FEEDBACK_CLOSED (R79, R81). -/
def execFeedbackClosed (b : Bay) (s : State) : Host.Outcome State Fault Refusal :=
  done (s.expire ((s.line b).feedback.due true) fun u => u.feedbackOn b)

/-- FEEDBACK_OPEN (R80, R81). -/
def execFeedbackOpen (b : Bay) (s : State) : Host.Outcome State Fault Refusal :=
  done (s.expire ((s.line b).feedback.due false) fun u => u.feedbackOff b)

/-- The limit timer of a contactor in a state (R76). -/
def Contactor.limitIn (c : Contactor) (st : CtrState) : Timer := if c.state == st then c.limit else none

/-- CLOSE_LIMIT_EXPIRY (R79). -/
def execCloseLimitExpiry (b : Bay) (s : State) : Host.Outcome State Fault Refusal :=
  done (s.expire ((s.ctr b).limitIn .closing) fun u => u.closeFailed b)

/-- OPEN_LIMIT_EXPIRY (R80). -/
def execOpenLimitExpiry (b : Bay) (s : State) : Host.Outcome State Fault Refusal :=
  done (s.expire ((s.ctr b).limitIn .opening) fun u => u.openFailed b)

/-- The supply wait timer of a bay's LAMP entry (R101). -/
def State.supplyTimer (s : State) (b : Bay) : Timer := match s.admEntry b .lamp with | some e => e.wait | none => none

/-- SUPPLY_TIMEOUT (R101). -/
def execSupplyTimeout (b : Bay) (s : State) : Host.Outcome State Fault Refusal :=
  done (s.expire (s.supplyTimer b) fun u => u.supplyTimedOut b)

/-- The hold timer of a bay's HEAT component (R104). -/
def State.holdTimer (s : State) (b : Bay) : Timer := match (s.claim b).heat with | some h => h.hold | none => none

/-- HOLD_TIMER_EXPIRY (R104). -/
def execHoldTimerExpiry (b : Bay) (s : State) : Host.Outcome State Fault Refusal :=
  done (s.expire (s.holdTimer b) fun u => u.holdExpired b)

/-- HEAT_TIME_REACHED (R119). -/
def execHeatTimeReached (b : Bay) (s : State) : Host.Outcome State Fault Refusal :=
  done (s.expire (s.session b).fullAt fun u => u.completeSession b (u.session b).late)

/-- The next whole minute of the count, while the required time is not reached (R119, log 24). -/
def Session.minuteTimer (x : Session) : Timer := if x.shown < x.required then x.minuteAt else none

/-- The whole-minute figure advances by one (R119). -/
def State.showMinute (s : State) (b : Bay) : State := s.setSession b { s.session b with shown := (s.session b).shown + 1 }

/-- ACCUMULATED_WHOLE_MINUTE_CHANGE (R119). -/
def execAccumulatedWholeMinuteChange (b : Bay) (s : State) : Host.Outcome State Fault Refusal :=
  done (s.expire (s.session b).minuteTimer fun u => u.showMinute b)

/-- HEARTBEAT_TIMER_EXPIRY (R211). -/
def execHeartbeatTimerExpiry (s : State) : Host.Outcome State Fault Refusal := done (s.expire s.hb.timer State.heartbeatLost)

/-- PREPARATION_TIMER_EXPIRY (R189). -/
def execPreparationTimerExpiry (b : Bay) (s : State) : Host.Outcome State Fault Refusal :=
  done (s.expire (s.clearance b).prep fun u => u.preparationOver b)

/-- The running lapse timer (R182). -/
def LapseTimer.timer : LapseTimer → Timer
  | .running due => some due
  | .stopped | .paused _ => none

/-- LAPSE_TIMER_EXPIRY (R191). -/
def execLapseTimerExpiry (b : Bay) (s : State) : Host.Outcome State Fault Refusal :=
  done (s.expire (s.clearance b).lapse.timer fun u => u.endClearance b .lapsed 0)

/-- REVERSE_TIMER_EXPIRY (R193). -/
def execReverseTimerExpiry (b : Bay) (s : State) : Host.Outcome State Fault Refusal :=
  done (s.expire (s.clearance b).reverse fun u => u.endClearance b .revoked rReversed)

end Sys2Proof.Machine
end

