-- ==== Sys2Proof/Machine/LinkCommands.lean ====
section
/-! DEFINITION. The meanings of the channel, link and lamp channel commands. -/

namespace Sys2Proof.Machine

open Sys2Proof.Config

/-- A channel entry has waited its limit: its activity ends NO_CHANNEL, and the list is examined (R138). -/
def State.waitOver (s : State) (b : Bay) (act : Activity) : State := (s.endWaiting b act .noChannel).askPool

/-- CHANNEL_WAIT_LIMIT_EXPIRY (R138). -/
def execChannelWaitLimitExpiry (b : Bay) (act : Activity) (s : State) : Host.Outcome State Fault Refusal :=
  done (s.expire ((s.chanEntry b act).map CEntry.limit) fun u => u.waitOver b act)

/-- The reservation timer has expired: the reservation begins for its entry (R137). -/
def State.reserve (s : State) : State :=
  match s.resTimer with
  | some (b, _) => { s with reservation := some b, resTimer := none }
  | none => s

/-- RESERVATION_TIMER_EXPIRY (R137). -/
def execReservationTimerExpiry (s : State) : Host.Outcome State Fault Refusal :=
  done (s.expire (s.resTimer.map fun r => r.2) State.reserve)

/-- REQUEST_SENT (R142). -/
def execRequestSent (ch : LinkIx) (s : State) : Host.Outcome State Fault Refusal := done (s.frameSent ch)

/-- The reply timer of the exchange under way (R142). -/
def LinkChannel.replyTimer (c : LinkChannel) : Option (Exchange × Nat) :=
  match c.exch with
  | some x => match x.state with
    | .waiting due _ => some (x, due)
    | .sending | .busy _ => none
  | none => none

/-- The BUSY wait of the exchange under way (R143). -/
def LinkChannel.busyTimer (c : LinkChannel) : Timer :=
  match c.exch with
  | some x => match x.state with
    | .busy due => some due
    | .sending | .waiting _ _ => none
  | none => none

/-- The reply timer runs out (R143). -/
def State.replyTimeout (s : State) (ch : LinkIx) : State :=
  match (s.link ch).replyTimer with
  | some (x, due) => (s.advanceTo due).replyExpired ch x
  | none => s

/-- REPLY_TIMER_EXPIRY (R143). -/
def execReplyTimerExpiry (ch : LinkIx) (s : State) : Host.Outcome State Fault Refusal := done (s.replyTimeout ch)

/-- BUSY_WAIT_EXPIRY (R143). -/
def execBusyWaitExpiry (ch : LinkIx) (s : State) : Host.Outcome State Fault Refusal :=
  done (s.expire (s.link ch).busyTimer fun u => u.nextAttempt ch)

/-- MALFORMED_FRAME (R142): bytes that the hunt discards, or keeps while their frame is incomplete; they are handled by what they are (log 23). -/
def execMalformedFrame (ch : LinkIx) (input : List LineByte) (s : State) : Host.Outcome State Fault Refusal := done (s.receive ch input)

/-- WAKE_REPLY (R144). -/
def execWakeReply (ch : LinkIx) (frame : List Byte) (s : State) : Host.Outcome State Fault Refusal := done (s.receiveFrame ch frame)

/-- WAKE_PAUSE_END (R144). -/
def execWakePauseEnd (ch : LinkIx) (s : State) : Host.Outcome State Fault Refusal :=
  done (s.expire (s.link ch).pause fun u => u.pauseOver ch)

/-- WAKE_TIMER_EXPIRY (R144). -/
def execWakeTimerExpiry (ch : LinkIx) (s : State) : Host.Outcome State Fault Refusal :=
  done (s.expire (s.link ch).wakeTimer fun u => u.wakeOver ch)

/-- IDENT_REPLY (R145). -/
def execIdentReply (ch : LinkIx) (frame : List Byte) (s : State) : Host.Outcome State Fault Refusal := done (s.receiveFrame ch frame)

/-- FAULT_PAGE_REPLY (R156). -/
def execFaultPageReply (ch : LinkIx) (frame : List Byte) (s : State) : Host.Outcome State Fault Refusal := done (s.receiveFrame ch frame)

/-- ERASE_STORED_REPLY (R160). -/
def execEraseStoredReply (ch : LinkIx) (frame : List Byte) (s : State) : Host.Outcome State Fault Refusal := done (s.receiveFrame ch frame)

/-- LAMP_REPLY (R173, R174). -/
def execLampReply (ch : LinkIx) (frame : List Byte) (s : State) : Host.Outcome State Fault Refusal := done (s.receiveFrame ch frame)

/-- SLEEP_REPLY (R147). -/
def execSleepReply (ch : LinkIx) (frame : List Byte) (s : State) : Host.Outcome State Fault Refusal := done (s.receiveFrame ch frame)

/-! ### Lamp channels -/

/-- A set with a member put in or taken out. -/
def setMember (v : Set8) (k : Sensor) (on : Bool) : Set8 :=
  if on then v ||| BitVec.ofNat 8 (2 ^ k.val) else v &&& ~~~ BitVec.ofNat 8 (2 ^ k.val)

/-- The settle timer of a sensor at a level change (R171). -/
def LampChannel.atLevel (c : LampChannel) (k : Sensor) (was lit : Bool) (now : Nat) : LampChannel :=
  let t := if c.litNow.getLsbD k.val == lit then none else if was == lit then vget c.settle k else some (now + sensorSettle)
  { c with settle := vset c.settle k t }

/-- A level change at a sensor of a bay's head: the channel switched to that bay sees it (R171, log 30). -/
def State.sensorPin (s : State) (b : Bay) (k : Sensor) (lit : Bool) : State :=
  let was := (vget s.heads b).getLsbD k.val
  let s1 := { s with heads := vset s.heads b (setMember (vget s.heads b) k lit) }
  match s.lampChOf b with
  | some lc => s1.setLampCh lc ((s1.lampCh lc).atLevel k was lit s.timeBase)
  | none => s1

/-- SENSOR_LEVEL_CHANGE (R171). -/
def execSensorLevelChange (b : Bay) (k : Sensor) (lit : Bool) (s : State) : Host.Outcome State Fault Refusal := done (s.sensorPin b k lit)

/-- The settle time of a sensor of a held lamp channel is over (R171). -/
def State.sensorSettled (s : State) (lc : LampIx) (k : Sensor) : State :=
  match (s.lampCh lc).holder, vget (s.lampCh lc).settle k with
  | some b, some due => (s.advanceTo due).sensorTaken lc k b
  | _, _ => s

/-- SENSOR_CHANGE_TAKEN (R171). -/
def execSensorChangeTaken (lc : LampIx) (k : Sensor) (s : State) : Host.Outcome State Fault Refusal := done (s.sensorSettled lc k)

/-- The window timer of a lamp check, if it runs for the named window (R166). -/
def LampWork.timerFor (w : LampWork) (k : Window) : Timer :=
  match w.window with
  | some (v, due) => if v == k then some due else none
  | none => none

/-- BASELINE_EXPIRY (R172). -/
def execBaselineExpiry (b : Bay) (s : State) : Host.Outcome State Fault Refusal :=
  done (s.expire ((s.lampWorkOf b).timerFor .baseline) fun u => u.baselineOver b)

/-- ON_WINDOW_EXPIRY (R173, R175). -/
def execOnWindowExpiry (b : Bay) (s : State) : Host.Outcome State Fault Refusal :=
  done (s.expire ((s.lampWorkOf b).timerFor .on) fun u => u.onWindowOver b)

/-- OFF_WINDOW_EXPIRY (R174, R175, R176). -/
def execOffWindowExpiry (b : Bay) (s : State) : Host.Outcome State Fault Refusal :=
  done (s.expire ((s.lampWorkOf b).timerFor .off) fun u => u.offWindowOver b)

end Sys2Proof.Machine
end

