-- ==== Sys2Proof/Machine/Dispatch.lean ====
section
/-! DEFINITION. The meaning of a command: one arm per row of spec/opcode_table.json. -/

namespace Sys2Proof.Machine

def exec (i : Instr) (s : State) : Host.Outcome State Fault Refusal :=
  match i with
  | .powerOn r => Sys2Proof.Machine.execPowerOn r s
  | .resetLine r => Sys2Proof.Machine.execResetLine r s
  | .reloadReadComplete => Sys2Proof.Machine.execReloadReadComplete s
  | .memoryWrite addr w => Sys2Proof.Machine.execMemoryWrite addr w s
  | .postedAreaWrite addr w => Sys2Proof.Machine.execPostedAreaWrite addr w s
  | .processorRead addr burstWords => Sys2Proof.Machine.execProcessorRead addr burstWords s
  | .throughReadComplete => Sys2Proof.Machine.execThroughReadComplete s
  | .fillReadComplete => Sys2Proof.Machine.execFillReadComplete s
  | .queueDrainComplete => Sys2Proof.Machine.execQueueDrainComplete s
  | .discardTimerExpiry word => Sys2Proof.Machine.execDiscardTimerExpiry word s
  | .snapshotLimitExpiry b => Sys2Proof.Machine.execSnapshotLimitExpiry b s
  | .postingSelect => Sys2Proof.Machine.execPostingSelect s
  | .postingGrant => Sys2Proof.Machine.execPostingGrant s
  | .postingBurstComplete => Sys2Proof.Machine.execPostingBurstComplete s
  | .settingsCommit w => Sys2Proof.Machine.execSettingsCommit w s
  | .clockSetCommit w => Sys2Proof.Machine.execClockSetCommit w s
  | .clockTrim w => Sys2Proof.Machine.execClockTrim w s
  | .acknowledgeCommit w => Sys2Proof.Machine.execAcknowledgeCommit w s
  | .classCommit c w => Sys2Proof.Machine.execClassCommit c w s
  | .planCommit b w => Sys2Proof.Machine.execPlanCommit b w s
  | .lampCheck b w => Sys2Proof.Machine.execLampCheck b w s
  | .faultRead b w => Sys2Proof.Machine.execFaultRead b w s
  | .faultReadErase b w => Sys2Proof.Machine.execFaultReadErase b w s
  | .cancelHeat b w => Sys2Proof.Machine.execCancelHeat b w s
  | .cancelChecks b w => Sys2Proof.Machine.execCancelChecks b w s
  | .releaseContactor b w => Sys2Proof.Machine.execReleaseContactor b w s
  | .orderUnknownKind b w => Sys2Proof.Machine.execOrderUnknownKind b w s
  | .progressWrite w => Sys2Proof.Machine.execProgressWrite w s
  | .clearanceRequestWrite b w => Sys2Proof.Machine.execClearanceRequestWrite b w s
  | .clearanceClear b w => Sys2Proof.Machine.execClearanceClear b w s
  | .clearanceCancel b w => Sys2Proof.Machine.execClearanceCancel b w s
  | .secondAdvance => Sys2Proof.Machine.execSecondAdvance s
  | .lineLevelChange line level => Sys2Proof.Machine.execLineLevelChange line level s
  | .presenceOccupied b => Sys2Proof.Machine.execPresenceOccupied b s
  | .presenceEmpty b => Sys2Proof.Machine.execPresenceEmpty b s
  | .plugOut b => Sys2Proof.Machine.execPlugOut b s
  | .plugIn b => Sys2Proof.Machine.execPlugIn b s
  | .exitLoopOccupied b => Sys2Proof.Machine.execExitLoopOccupied b s
  | .exitLoopFree b => Sys2Proof.Machine.execExitLoopFree b s
  | .yardHoldActive => Sys2Proof.Machine.execYardHoldActive s
  | .yardHoldInactive => Sys2Proof.Machine.execYardHoldInactive s
  | .feedbackClosed b => Sys2Proof.Machine.execFeedbackClosed b s
  | .feedbackOpen b => Sys2Proof.Machine.execFeedbackOpen b s
  | .closeLimitExpiry b => Sys2Proof.Machine.execCloseLimitExpiry b s
  | .openLimitExpiry b => Sys2Proof.Machine.execOpenLimitExpiry b s
  | .supplyTimeout b => Sys2Proof.Machine.execSupplyTimeout b s
  | .holdTimerExpiry b => Sys2Proof.Machine.execHoldTimerExpiry b s
  | .heatTimeReached b => Sys2Proof.Machine.execHeatTimeReached b s
  | .channelWaitLimitExpiry b act => Sys2Proof.Machine.execChannelWaitLimitExpiry b act s
  | .reservationTimerExpiry => Sys2Proof.Machine.execReservationTimerExpiry s
  | .requestSent ch => Sys2Proof.Machine.execRequestSent ch s
  | .replyTimerExpiry ch => Sys2Proof.Machine.execReplyTimerExpiry ch s
  | .busyWaitExpiry ch => Sys2Proof.Machine.execBusyWaitExpiry ch s
  | .malformedFrame ch input => Sys2Proof.Machine.execMalformedFrame ch input s
  | .wakeReply ch frame => Sys2Proof.Machine.execWakeReply ch frame s
  | .wakePauseEnd ch => Sys2Proof.Machine.execWakePauseEnd ch s
  | .wakeTimerExpiry ch => Sys2Proof.Machine.execWakeTimerExpiry ch s
  | .identReply ch frame => Sys2Proof.Machine.execIdentReply ch frame s
  | .faultPageReply ch frame => Sys2Proof.Machine.execFaultPageReply ch frame s
  | .eraseStoredReply ch frame => Sys2Proof.Machine.execEraseStoredReply ch frame s
  | .lampReply ch frame => Sys2Proof.Machine.execLampReply ch frame s
  | .sleepReply ch frame => Sys2Proof.Machine.execSleepReply ch frame s
  | .sensorLevelChange b sensor lit => Sys2Proof.Machine.execSensorLevelChange b sensor lit s
  | .sensorChangeTaken lampCh sensor => Sys2Proof.Machine.execSensorChangeTaken lampCh sensor s
  | .baselineExpiry b => Sys2Proof.Machine.execBaselineExpiry b s
  | .onWindowExpiry b => Sys2Proof.Machine.execOnWindowExpiry b s
  | .offWindowExpiry b => Sys2Proof.Machine.execOffWindowExpiry b s
  | .preparationTimerExpiry b => Sys2Proof.Machine.execPreparationTimerExpiry b s
  | .lapseTimerExpiry b => Sys2Proof.Machine.execLapseTimerExpiry b s
  | .reverseTimerExpiry b => Sys2Proof.Machine.execReverseTimerExpiry b s
  | .heartbeatTimerExpiry => Sys2Proof.Machine.execHeartbeatTimerExpiry s
  | .accumulatedWholeMinuteChange b => Sys2Proof.Machine.execAccumulatedWholeMinuteChange b s

end Sys2Proof.Machine
end

