-- ==== Sys2Proof/Machine/Step.lean ====
section
/-! DEFINITION. One step: the command at the front of the queue, or an idle unit of time. -/

namespace Sys2Proof.Machine

/-- Take the command at the front of the queue and run it on the state with the queue's rest; on an empty queue one unit of the time
base passes (log 3). -/
def step (s : State) : Host.Outcome State Fault Refusal :=
  match s.pending with
  | [] => .next (tick s)
  | c :: rest => exec c { s with pending := rest }

/-- The command that a table word spells, put at the front of the queue; no word spells one (log 34, log 35). -/
def State.withFetchWord (s : State) (nbits w : Nat) : State :=
  match decodeTableWord nbits w with
  | some c => { s with pending := c :: s.pending }
  | none => s

end Sys2Proof.Machine
end

