-- ==== Sys2Proof/Safety.lean ====
section
/-! DEFINITION. The laws of the SJ16 that its spec states over every state, as predicates of a state, and the groups of commands and the
conditions of writes that the statements name. -/

namespace Sys2Proof.Safety

open Sys2Proof.Machine Sys2Proof.Config

/-- The memory behind the Memory Port is in canonical form (log 5). -/
def MemoryCanonical (s : State) : Prop := s.mem.wf = true

/-- The Write Queue holds at most 8 entries (R11) and the Delayed Read Table at most 4 (R14). -/
def PathCapacity (s : State) : Prop := s.path.queue.length ≤ queueCapacity ∧ s.path.delayed.length ≤ delayedCapacity

/-- The Event Buffer holds at most 16 records (R203). -/
def BufferCapacity (s : State) : Prop := s.ev.buffer.length ≤ bufferCapacity

/-- An event under posting is still in the buffer (R203). -/
def PostedEventHeld (s : State) : Prop := ∀ p, s.post.sel = some p → p.target = .event → s.ev.buffer ≠ []

/-- Stamps assigned are the events written, held and missed, in the 16 bits of the producer index (R203, R204). -/
def StampsBalance (s : State) : Prop :=
  s.ev.stamp.setWidth 16 = s.ev.producer + BitVec.ofNat 16 s.ev.buffer.length + s.ev.missed.setWidth 16

/-- The effective budget is the larger of the target budget and the granted total (R91). -/
def BudgetLaw (s : State) : Prop := s.effective = max s.settings.target s.granted

/-- A bay that holds HEAT or LAMP holds STANDING (R94). -/
def StandingLaw (s : State) : Prop := ∀ b : Bay, (s.claim b).heat.isSome ∨ (s.claim b).lamp.isSome → (s.claim b).standing.isSome

/-- The exit signal shows PROCEED only while the bay's clearance is CLEARED (R88). -/
def SignalLaw (s : State) : Prop := ∀ b : Bay, (s.bay b).proceed = true → (s.clearance b).state = .cleared

/-- While a bay's clearance is CLEARED, SUSPENDED or DEPARTING its contactor is OPEN (R190, R197). -/
def ContactorLaw (s : State) : Prop := ∀ b : Bay, (s.clearance b).state.needsOpen = true → (s.ctr b).state = .open

/-- While the start-up reload runs every clearance is NONE (R30, R182). -/
def ReloadQuiet (s : State) : Prop := s.path.reload.isSome = true → ∀ b : Bay, (s.clearance b).state = .none

/-- No two occupied slots of a table carry the same fault code (R151). -/
def TableDistinct (t : FaultTable) : Prop :=
  ∀ i j : Fin 8, ∀ x y, vget t.slots i = some x → vget t.slots j = some y → x.code = y.code → i = j

/-- Every bay's Fault Table has distinct codes (R151). -/
def TablesLaw (s : State) : Prop := ∀ b : Bay, TableDistinct (s.table b)

/-! ### The laws of contactor, heat and bar -/

/-- An OPEN, CLOSING or FAILED_CLOSE contactor has its feedback open, as taken (R79 to R81, R90). -/
def FeedbackLaw (s : State) : Prop :=
  ∀ b : Bay, (s.ctr b).state = .open ∨ (s.ctr b).state = .closing ∨ (s.ctr b).state = .failedClose → s.fedBack b = false

/-- The heat pilot is ON only while the session is HEATING, HEAT is in the claimant set and the contactor is CLOSED (R87). A HEATING session has
its supply GRANTED (R117, R118), and a live one the plan copy with a ready-by time it was booked by (R114, R126). -/
def HeatLaw (s : State) : Prop := ∀ b : Bay,
  ((s.ctr b).pilot = true → (s.session b).state = .heating ∧ (s.ctr b).heat = true ∧ (s.ctr b).state = .closed) ∧
  ((s.session b).state = .heating → (s.session b).phase = .granted) ∧
  ((s.session b).state.live = true → ∃ p t, (s.bay b).plan = some p ∧ p.readyBy = some t)

/-- While a bay's clearance is CLEARED, SUSPENDED or DEPARTING, it holds no claim component and has no entry in the Admission Waiting List (R99,
R190). -/
def BarLaw (s : State) : Prop := ∀ b : Bay, (s.clearance b).state.needsOpen = true →
  (s.claim b).standing = none ∧ (s.claim b).heat = none ∧ (s.claim b).lamp = none ∧ ∀ e ∈ s.admList, e.bay ≠ b

/-! ### Groups of commands -/

/-- The commands that are a write on the Processor Port (R1; log 23). -/
def isWrite : Instr → Bool
  | .memoryWrite _ _ | .postedAreaWrite _ _ | .settingsCommit _ | .clockSetCommit _ | .clockTrim _ | .acknowledgeCommit _ | .classCommit _ _
  | .planCommit _ _ | .lampCheck _ _ | .faultRead _ _ | .faultReadErase _ _ | .cancelHeat _ _ | .cancelChecks _ _ | .releaseContactor _ _
  | .orderUnknownKind _ _ | .progressWrite _ | .clearanceRequestWrite _ _ | .clearanceClear _ _ | .clearanceCancel _ _ => true
  | _ => false

/-- The two resets and the reads of the start-up reload (R28, R30). -/
def isReset : Instr → Bool
  | .powerOn _ | .resetLine _ | .reloadReadComplete => true
  | _ => false

/-- The commands by which a word may reach memory: a drain, a posting burst with a read inside it, a reset (R2, R12, R26, R28). -/
def reachesMemory : Instr → Bool
  | .queueDrainComplete | .postingBurstComplete | .processorRead _ _ | .powerOn _ | .resetLine _ => true
  | _ => false

/-- The commands of the Path Unit and the Posting Engine that are no write (R13 to R27). -/
def isPath : Instr → Bool
  | .processorRead _ _ | .throughReadComplete | .fillReadComplete | .queueDrainComplete | .discardTimerExpiry _ | .snapshotLimitExpiry _
  | .postingSelect | .postingGrant | .postingBurstComplete => true
  | _ => false

/-- The commands that are a change at a sensed line's pin or the taking of one (R68). -/
def isLine : Instr → Bool
  | .lineLevelChange _ _ | .presenceOccupied _ | .presenceEmpty _ | .plugOut _ | .plugIn _ | .exitLoopOccupied _ | .exitLoopFree _
  | .yardHoldActive | .yardHoldInactive | .feedbackClosed _ | .feedbackOpen _ => true
  | _ => false

/-- The bay of a command about one bay: its lines, timers and windows, or the bay that holds the link channel named. -/
def bayOf (s : State) : Instr → Option Bay
  | .presenceOccupied b | .presenceEmpty b | .plugOut b | .plugIn b | .exitLoopOccupied b | .exitLoopFree b | .feedbackClosed b
  | .feedbackOpen b | .closeLimitExpiry b | .openLimitExpiry b | .supplyTimeout b | .holdTimerExpiry b | .heatTimeReached b
  | .channelWaitLimitExpiry b _ | .baselineExpiry b | .onWindowExpiry b | .offWindowExpiry b | .preparationTimerExpiry b
  | .lapseTimerExpiry b | .reverseTimerExpiry b | .accumulatedWholeMinuteChange b => some b
  | .requestSent ch | .replyTimerExpiry ch | .busyWaitExpiry ch | .wakePauseEnd ch | .wakeTimerExpiry ch => (s.link ch).select
  | .malformedFrame ch _ | .wakeReply ch _ | .identReply ch _ | .faultPageReply ch _ | .eraseStoredReply ch _ | .lampReply ch _
  | .sleepReply ch _ => (s.link ch).select
  | _ => none

/-! ### Conditions of writes and the events of a command -/

/-- The word of the region at a byte offset (R4). -/
def wordAt (s : State) (offset : Nat) : BitVec 24 := wordAddr (regionAddr s.path.base offset)

/-- A write reaches its area of the region: no read is waiting (log 9), no reload runs, a byte is enabled, its parity is good (R5, R10). -/
def Reaches (s : State) (w : BusWrite) : Prop :=
  s.path.port.busy = false ∧ s.path.reload = none ∧ w.enables ≠ 0 ∧ parityError w = false

/-- The byte address and the word of a write command (R1, R4). -/
def writeOf (s : State) : Instr → Option (BitVec 26 × BusWrite)
  | .memoryWrite a w | .postedAreaWrite a w => some (a, w)
  | .settingsCommit w => some (regionAddr s.path.base 0x3C, w)
  | .clockSetCommit w => some (regionAddr s.path.base 0x48, w)
  | .clockTrim w => some (regionAddr s.path.base 0x4C, w)
  | .progressWrite w => some (regionAddr s.path.base 0x50, w)
  | .acknowledgeCommit w => some (regionAddr s.path.base 0x5C, w)
  | .classCommit c w => some (regionAddr s.path.base (0x21C + 0x20 * c.val), w)
  | .planCommit b w => some (regionAddr s.path.base (0x61C + 0x20 * b.val), w)
  | .lampCheck b w | .faultRead b w | .faultReadErase b w | .cancelHeat b w | .cancelChecks b w | .releaseContactor b w
  | .orderUnknownKind b w => some (regionAddr s.path.base (0x800 + 4 * b.val), w)
  | .clearanceRequestWrite b w => some (regionAddr s.path.base (0x880 + 8 * b.val), w)
  | .clearanceClear b w | .clearanceCancel b w => some (regionAddr s.path.base (0x884 + 8 * b.val), w)
  | _ => none

/-- The areas whose writes are staged (R4, R7). -/
def isCapture : Area → Bool
  | .settings _ | .clockSet _ | .trim | .progress | .ack _ | .classRow _ _ | .planRow _ _ | .order _ => true
  | .clockRow _ | .ringHeader _ | .request _ | .check _ | .statusRow _ _ | .faultBlock _ _ | .ring | .pass => false

/-- The areas whose writes are refused: SERVED and POSTED (R4, R8). -/
def isServedOrPosted : Area → Bool
  | .clockRow _ | .ringHeader _ | .statusRow _ _ | .faultBlock _ _ | .ring => true
  | .settings _ | .clockSet _ | .trim | .progress | .ack _ | .classRow _ _ | .planRow _ _ | .order _ | .request _ | .check _ | .pass => false

/-- The staged words whose write acts beyond staging: the check words (R35) and the single-word records (R37). -/
def handsOn : Area → Bool
  | .settings k => k == 15
  | .clockSet k | .ack k => k == 2
  | .classRow _ k | .planRow _ k => k == 7
  | .trim | .progress | .order _ => true
  | .clockRow _ | .ringHeader _ | .request _ | .check _ | .statusRow _ _ | .faultBlock _ _ | .ring | .pass => false

/-- The areas answered from live state (R4, R9). -/
def isServed : Area → Bool
  | .clockRow _ | .ringHeader _ => true
  | .settings _ | .clockSet _ | .trim | .progress | .ack _ | .classRow _ _ | .planRow _ _ | .order _ | .request _ | .check _
  | .statusRow _ _ | .faultBlock _ _ | .ring | .pass => false

/-- The area of a word of the region. -/
def areaAt (v : BitVec 24) : Area := areaOf (offsetOf v)

/-- The snapshot holds after a read of a word is answered DONE (R22). -/
def holdsAfter (s : State) (v : BitVec 24) : Bays Timer :=
  if inRegion s.path.base v then
    match areaAt v with
    | .statusRow b 0 => vset s.path.holds b (some (s.timeBase + snapshotLimit))
    | .statusRow b 15 => vset s.path.holds b none
    | _ => s.path.holds
  else s.path.holds

/-- It reaches its area, and the Write Queue has a free entry (R11). -/
def Accepts (s : State) (w : BusWrite) : Prop := Reaches s w ∧ s.path.queue.length < queueCapacity

/-- The word as a queue entry (R11). -/
def entryOf (v : BitVec 24) (w : BusWrite) : QEntry := ⟨v, w.data, w.enables, w.parity⟩

/-- The next event after `s` in the Event Buffer of `t`, where there was room for it (R203). -/
def NextEvent (s t : State) (e : EventRec) : Prop :=
  s.ev.buffer.length < bufferCapacity → t.ev.buffer[s.ev.buffer.length]? = some e

/-- An event that a command has raised, the `i`-th before its last one (R201), where the Event Buffer has not become full. -/
def RaisedLast (s t : State) (i : Nat) (k : Kind) (b : Option Bay) (detail seq : Nat) : Prop :=
  t.ev.buffer.length < bufferCapacity → s.ev.buffer.length + i < t.ev.buffer.length ∧
    t.ev.buffer[t.ev.buffer.length - 1 - i]? = some { s.eventRec k b detail seq with stamp := t.ev.stamp - BitVec.ofNat 32 i }

/-- The order word staged after a write to it (R33, R37). -/
def orderWord (s : State) (b : Bay) (w : BusWrite) : Word := mergeWord (vget s.cap.orders b) w.data w.enables

/-- A write offers the bay an order of a kind with a new sequence (R46). -/
def Orders (s : State) (b : Bay) (w : BusWrite) (k : OrderKind) : Prop :=
  Accepts s w ∧ orderKind (orderWord s b w) = k ∧ vget s.orderSeqs b ≠ some (orderSeq (orderWord s b w))

/-- A burst under way has an image of its posting's size and has written no more than that (R26). -/
def BurstWhole (s : State) : Prop :=
  ∀ tg bu, s.post.sel = some ⟨tg, some bu⟩ → bu.image.length = tg.size ∧ bu.written ≤ bu.image.length

/-- Bay `x` comes before bay `y` in shed order (R105): no roster time before any, the later time before the earlier (R61), and among bays that are
equal in this the higher number. -/
def ShedsBefore (s : State) (x y : Bay) : Prop :=
  match s.planRoster x, s.planRoster y with
  | none, none => y.val < x.val
  | none, some _ => True
  | some _, none => False
  | some tx, some ty => if forward ty tx = 0 then y.val < x.val else forward ty tx < halfCounts

/-- Bay `b` holds a HEAT component that meets `P`, and comes in shed order before every other bay that holds one (R105). -/
def FirstToShed (s : State) (P : Bay → HeatClaim → Prop) (b : Bay) : Prop :=
  (∃ h, (s.claim b).heat = some h ∧ P b h) ∧ ∀ c h, (s.claim c).heat = some h → P c h → c ≠ b → ShedsBefore s b c

/-- The state of a sensed line (R68). -/
def lineOf (s : State) : Line → LineState
  | .presence b => (s.line b).presence
  | .plug b => (s.line b).plug
  | .loop b => (s.line b).loop
  | .feedback b => (s.line b).feedback
  | .hold => s.hold

/-- A line's settle timer runs for a change to `v` and is due at an instant (R68). -/
def Settling (l : LineState) (v : Bool) (due : Nat) : Prop := l.level = v ∧ l.taken = !v ∧ l.settle = some due

/-- A link channel waits between frames for the reply to an exchange of an activity's procedure: it runs under no stop, and no loss of supply
(R142, R143, R148, R177). -/
def Awaits (s : State) (ch : LinkIx) (b : Bay) (act : Activity) (x : Exchange) : Prop :=
  (s.link ch).holder = some (b, act) ∧ (s.link ch).exch = some x ∧ (∃ due, x.state = .waiting due []) ∧
  (s.act b act).stage = .running ∧ (s.act b act).stop = .none ∧ (s.lampWorkOf b).lost = false

/-- No queued write is newer than what a read is about to be answered: a READY entry, a fill under way that is not dropped and a waiting through
read have no queued write to their word, and READY data is what memory holds, but for the words that postings write (R13, R15, R18, R19). -/
def FreshLaw (s : State) : Prop :=
  (∀ e ∈ s.path.delayed, ∀ d p due, e.state = .ready d p due → s.queued e.word = false ∧
    ((inRegion s.path.base e.word = true → isServedOrPosted (areaAt e.word) = false) →
      s.mem.word e.word = d ∧ s.mem.wordParity e.word = p)) ∧
  (∀ v, s.path.begun = some (.fill v false) → s.queued v = false) ∧ (∀ v, s.path.port = .waiting v → s.queued v = false)

/-! ### Conditions of sessions, clearances and checks -/

/-- A result recorded at `r` is fresh under a limit (R61, R62): the clock is VALID, and the minutes from `r` to now, counted forward, are fewer than
half the circle and no more than the limit. -/
def Fresh (s : State) (r : Option TimeOfDay) (limit : Nat) : Prop := ∃ t : TimeOfDay, r = some t ∧ s.clock.valid = true ∧
  (s.clock.day * 1440 + s.clock.sec / 60 + 94371840 - (t.day * 1440 + t.sec / 60) % 94371840) % 94371840 < 47185920 ∧
  (s.clock.day * 1440 + s.clock.sec / 60 + 94371840 - (t.day * 1440 + t.sec / 60) % 94371840) % 94371840 ≤ limit

/-- The bay's Fault Table holds an ACTIVE BLOCKING fault (R164). -/
def HoldsBlocking (s : State) (b : Bay) : Prop :=
  ∃ k x, vget (s.table b).slots k = some x ∧ x.active = true ∧ x.severity = .blocking

/-- The session `y` that comes of a BOOKED or WAITING session `x` of the bay when required and start time are computed for `m` heat minutes and the
tests of R115 are made (R113, R115). -/
def Computed (s : State) (b : Bay) (x : Session) (m : Nat) (y : Session) : Prop :=
  let start := x.readyBy.map fun t => (t % 94371840 + 94371840 - m % 94371840) % 94371840
  let reached := start.any fun t => s.reached t
  let late := match start, s.nowMinute with | some t, some n => n % 94371840 != t | _, _ => false
  y.required = m ∧ y.start = start ∧ y.readyBy = x.readyBy ∧ y.frozen = x.frozen ∧ y.lateReported = x.lateReported ∧
  (m = 0 → reached = true → y.state = .complete ∧ y.phase = .noEntry ∧ y.late = late) ∧
  (m = 0 → reached = false → y = { x with required := m, start := start }) ∧
  (m ≠ 0 → x.state = .booked → reached = true → s.isAssigned b = true → s.occupied b = true → s.plugged b = true →
    y.state = .waiting ∧ y.late = late) ∧
  (m ≠ 0 → (x.state = .waiting ∨ reached = false ∨ s.isAssigned b = false ∨ s.occupied b = false ∨ s.plugged b = false) →
    y = { x with required := m, start := start })

/-- The heat minutes of a class row in a temperature band (R40, R113). -/
def bandMinutes (r : ClassRow) (band : Nat) : Nat := vget r.heatMin (Fin.ofNat 4 band)

/-- A result that findings lead to: FAIL on a finding of a critical group, else PASS_WITH_NOTES on any finding, else PASS (R175, R176). -/
def JudgedFrom (l : Layout) (findings : Vector (Option Finding) 8) (j : Judged) : Prop :=
  let bad := fun (g : Group) => ∃ f, vget findings g = some f ∧ (f.dark = true ∨ f.cross = true ∨ f.stuck = true)
  ((∃ g, l.critical.getLsbD g.val = true ∧ bad g) → j = .fail) ∧
  ((∃ g, bad g) → (∀ g, l.critical.getLsbD g.val = true → ¬ bad g) → j = .passWithNotes) ∧
  ((∀ g, ¬ bad g) → j = .pass)

end Sys2Proof.Safety
end

