-- ==== Sys2Proof/Certificates/Slice0/Obligations.lean ====
section
/-! DEFINITION. The statements about the model, one `def Obligations.<Name> : Prop` each. Where a statement says
`exec c s = .next d.settle`, `d` is the state the command itself leaves and `settle` the examinations and vettings it asks for (log 15). -/

open Sys2Proof Sys2Proof.Machine Sys2Proof.Config Sys2Proof.Safety

/-! ### The step -/

/-- A step takes the command at the front of the queue and runs it on the queue's rest; an empty queue is one unit of time (log 3). -/
def Obligations.StepRunsFrontCommand : Prop :=
  (∀ c rest s, s.pending = c :: rest → step s = exec c { s with pending := rest }) ∧
  (∀ s, s.pending = [] → step s = .next { s with timeBase := s.timeBase + 1 })

/-- Every command answers a next state, whatever the state, and leaves the waiting commands alone. Where it asks for no examination, no level test and
no vetting, carrying out what it asked for changes nothing (log 15). -/
def Obligations.EveryCommandAnswersNext : Prop :=
  (∀ (c : Instr) (s : State), ∃ t, exec c s = .next t ∧ t.pending = s.pending) ∧
  (∀ s : State, s.agenda = {} → s.settle = s)

/-- The machine right after power-on, and the laws there. The values of pins, straps and memory are the model's choice (log 5, log 11). -/
def Obligations.ResetStateAndLaws : Prop :=
  State.reset.pending = [] ∧ State.reset.timeBase = 0 ∧ State.reset.clock = ⟨false, 0, 0, 0⟩ ∧ State.reset.path = {} ∧
  State.reset.post.dirty = Vector.replicate 32 true ∧ State.reset.settings.heartbeat = 10 ∧ State.reset.settings.alarm = 0x124 ∧
  State.reset.classes = Vector.replicate 32 none ∧ State.reset.ev = {} ∧ State.reset.hb.state = .awaiting ∧
  (∀ b, State.reset.bay b = {} ∧ (State.reset.ctr b).state = .open ∧ (State.reset.session b).state = .none ∧
    (State.reset.clearance b).state = .none ∧ ∀ a, (State.reset.act b a).stage = .none) ∧
  MemoryCanonical State.reset ∧ PathCapacity State.reset ∧ BufferCapacity State.reset ∧ PostedEventHeld State.reset ∧
  StampsBalance State.reset ∧ BudgetLaw State.reset ∧ StandingLaw State.reset ∧ SignalLaw State.reset ∧ ContactorLaw State.reset ∧
  ReloadQuiet State.reset ∧ TablesLaw State.reset ∧ FreshLaw State.reset ∧ BurstWhole State.reset ∧ FeedbackLaw State.reset ∧ HeatLaw State.reset ∧
  BarLaw State.reset

/-! ### Invariants that every step keeps -/

/-- The memory keeps its canonical form (log 5); the Write Queue never holds more than 8 entries and the Delayed Read Table never more than 4
(R11, R14); a burst's image keeps its posting's size, and no more than it is written (R26); no read is about to be answered with a value older
than an accepted write, the memory being canonical (R13, R15, R18, R19). -/
def Obligations.StepKeepsPathLaws : Prop :=
  (∀ s t, MemoryCanonical s → step s = .next t → MemoryCanonical t) ∧
  (∀ s t, PathCapacity s → step s = .next t → PathCapacity t) ∧
  (∀ s t, BurstWhole s → PostedEventHeld s → step s = .next t → BurstWhole t) ∧
  (∀ s t, MemoryCanonical s → FreshLaw s → step s = .next t → FreshLaw t)

/-- The Event Buffer never holds more than 16 records, an event under posting stays in it, and the stamps assigned are the events written, held and
missed (R203, R204). -/
def Obligations.StepKeepsEventBalance : Prop :=
  ∀ s t, BufferCapacity s → PostedEventHeld s → StampsBalance s → step s = .next t →
    BufferCapacity t ∧ PostedEventHeld t ∧ StampsBalance t

/-- The effective budget stays the larger of the target budget and the granted total (R91), a bay that holds HEAT or LAMP keeps STANDING (R94), and
no two slots of a Fault Table carry the same code (R151). -/
def Obligations.StepKeepsAdmissionAndTables : Prop :=
  (∀ s t, BudgetLaw s → step s = .next t → BudgetLaw t) ∧ (∀ s t, StandingLaw s → step s = .next t → StandingLaw t) ∧
  (∀ s t, TablesLaw s → step s = .next t → TablesLaw t)

/-- The exit signal shows PROCEED only while the clearance is CLEARED (R88). A CLEARED, SUSPENDED or DEPARTING clearance keeps its bay's contactor
OPEN, and every clearance is NONE through the start-up reload (R190, R197, R182). -/
def Obligations.StepKeepsClearanceLaws : Prop :=
  (∀ s t, SignalLaw s → step s = .next t → SignalLaw t) ∧
  (∀ s t, ContactorLaw s → ReloadQuiet s → step s = .next t → ContactorLaw t ∧ ReloadQuiet t)

/-- The heat pilot is ON only while the session is HEATING, HEAT is a claimant and the contactor is CLOSED (R87), and an OPEN, CLOSING or
FAILED_CLOSE contactor has open feedback (R79 to R81). While a clearance is CLEARED, SUSPENDED or DEPARTING, its bay has no claim component and no
entry that asks for one (R99, R190). With the law of the open contactor that every step keeps, that is R190's: the contactor OPEN with open
feedback, the heat pilot OFF, no claim component. -/
def Obligations.StepKeepsHeatAndBarLaws : Prop :=
  (∀ s t, HeatLaw s → step s = .next t → HeatLaw t) ∧
  (∀ s t, FeedbackLaw s → step s = .next t → FeedbackLaw t) ∧
  (∀ s t, BarLaw s → ContactorLaw s → ReloadQuiet s → step s = .next t → BarLaw t) ∧
  (∀ s t, HeatLaw s → FeedbackLaw s → BarLaw s → ContactorLaw s → ReloadQuiet s → step s = .next t →
    ∀ b, ((t.clearance b).state = .cleared ∨ (t.clearance b).state = .suspended ∨ (t.clearance b).state = .departing) →
      (t.ctr b).state = .open ∧ t.fedBack b = false ∧ (t.ctr b).pilot = false ∧
      (t.claim b).standing = none ∧ (t.claim b).heat = none ∧ (t.claim b).lamp = none)

/-! ### Frames -/

/-- Only a drain, a burst and a reset write memory: after any other command every byte and its parity bit read as before (R2). Only a write, a reset
and the reload change a staging image, a committed record or a last-taken sequence (R32, R33). -/
def Obligations.FrameMemoryAndRecords : Prop :=
  (∀ c s t, reachesMemory c = false → exec c s = .next t → ∀ a, t.mem.byte a = s.mem.byte a ∧ t.mem.parityAt a = s.mem.parityAt a) ∧
  (∀ c s t, isWrite c = false → isReset c = false → exec c s = .next t →
    t.cap = s.cap ∧ t.settings = s.settings ∧ t.clockSetCopy = s.clockSetCopy ∧ t.ackCopy = s.ackCopy ∧ t.classes = s.classes ∧
    t.plans = s.plans ∧ t.clearanceCopies = s.clearanceCopies ∧ t.orderSeqs = s.orderSeqs)

/-- Ports, queue, table, holds and slots of the Path Unit are changed by writes, by the path's own commands and by resets alone; the engine's
selection, the producer index, the straps and whether the reload runs by the path's own commands and resets. -/
def Obligations.FramePath : Prop :=
  ∀ c s t, isPath c = false → isReset c = false → exec c s = .next t →
    (isWrite c = false → t.path = s.path) ∧ t.post.sel = s.post.sel ∧ t.post.lastRow = s.post.lastRow ∧
    t.post.lastStream = s.post.lastStream ∧ t.ev.producer = s.ev.producer ∧ t.ev.epoch = s.ev.epoch ∧
    t.path.base = s.path.base ∧ t.path.reload.isSome = s.path.reload.isSome

/-- Clock, lines, yard hold, heads, supervision and consumer index are changed by their own commands alone; time never runs backward but at POWER_ON. -/
def Obligations.FrameTimeAndLines : Prop :=
  ∀ c s t, exec c s = .next t →
    (isReset c = false → isLine c = false → t.lines = s.lines ∧ t.hold = s.hold) ∧
    ((∀ b k l, c ≠ .sensorLevelChange b k l) → t.heads = s.heads) ∧
    (isReset c = false → isWrite c = false → t.ev.consumer = s.ev.consumer ∧ (c ≠ .heartbeatTimerExpiry → t.hb = s.hb) ∧
      (c ≠ .secondAdvance → t.clock = s.clock ∧ t.horizon = s.horizon)) ∧
    ((∀ r, c ≠ .powerOn r) → s.timeBase ≤ t.timeBase)

/-- What a command about one bay does itself leaves the other bays' records alone; only the examinations and vettings it asks for reach them (log 15).
A request sent marks its channel's holder as using the link (R142). -/
def Obligations.FrameOtherBays : Prop :=
  ∀ c s b, bayOf s c = some b → ∃ d : State, exec c s = .next d.settle ∧ ∀ b', b' ≠ b →
    d.bay b' = s.bay b' ∧ d.line b' = s.line b' ∧ d.ctr b' = s.ctr b' ∧ d.claim b' = s.claim b' ∧ d.session b' = s.session b' ∧
    d.table b' = s.table b' ∧ d.summary b' = s.summary b' ∧ d.lampWorkOf b' = s.lampWorkOf b' ∧ d.lampResult b' = s.lampResult b' ∧
    d.clearance b' = s.clearance b' ∧
    ∀ a, (d.act b' a).stage = (s.act b' a).stage ∧ (d.act b' a).stop = (s.act b' a).stop ∧ (d.act b' a).ending = (s.act b' a).ending ∧
      (d.act b' a).origin = (s.act b' a).origin ∧ (d.act b' a).variant = (s.act b' a).variant

/-! ### Writes on the Processor Port -/

/-- A write outside the region, or with good parity to a PASS word, enters the queue behind the others, frees a delayed read of its word and is
answered DONE; nothing but the path changes (R6, R11, R18). Log 23: the row's name does not bind the address. -/
def Obligations.WriteQueued : Prop :=
  ∀ c s addr w, writeOf s c = some (addr, w) → s.path.port.busy = false → w.enables ≠ 0 → s.path.queue.length < queueCapacity →
    (inRegion s.path.base (wordAddr addr) = true → s.path.reload = none ∧ parityError w = false ∧ areaAt (wordAddr addr) = .pass) →
    ∃ p, exec c s = .next (State.settle { s with path := p }) ∧ p.port = .done ∧
      p.queue = s.path.queue ++ [entryOf (wordAddr addr) w] ∧ p.delayed = s.path.delayed.filter (fun e => e.word != wordAddr addr) ∧
      p.holds = s.path.holds ∧ p.held = s.path.held

/-- A write that finds the queue full, and every region write during the reload, is answered RETRY and leaves no trace (R1, R6, R7, R29). A write with
no byte enabled is answered DONE and leaves none (R1, log 14). One that arrives while a read waits for memory is not taken up (log 9). -/
def Obligations.WriteRetried : Prop :=
  ∀ c s addr w, writeOf s c = some (addr, w) →
    (s.path.port.busy = true → exec c s = .next s.settle) ∧
    (s.path.port.busy = false →
      (inRegion s.path.base (wordAddr addr) = true ∧ s.path.reload.isSome = true ∨
       s.path.queue.length = queueCapacity ∧ w.enables ≠ 0 ∧ (inRegion s.path.base (wordAddr addr) = true →
         parityError w = false ∧ (areaAt (wordAddr addr) = .pass ∨ isCapture (areaAt (wordAddr addr)) = true)) →
       ∃ b, exec c s = .next (State.settle { s with path := { s.path with port := .retry, begun := b } })) ∧
      (w.enables = 0 → (inRegion s.path.base (wordAddr addr) = true → s.path.reload = none) →
       ∃ b, exec c s = .next (State.settle { s with path := { s.path with port := .done, begun := b } })))

/-- A region write with a parity error is answered DONE and dropped with PARITY_DROPPED, and one with good parity to a POSTED or SERVED word with
WRITE_REFUSED; the bay owns the word, and neither queue, table, staging nor a held slot is touched (R8, R10). That the write's byte address is the
word's, its two low bits 0, is the model's reading (DEDUCED, log 13). -/
def Obligations.WriteDropped : Prop :=
  ∀ c s addr w, writeOf s c = some (addr, w) → s.path.port.busy = false → s.path.reload = none → w.enables ≠ 0 →
    inRegion s.path.base (wordAddr addr) = true → (parityError w = true ∨ isServedOrPosted (areaAt (wordAddr addr)) = true) →
    ∃ t, exec c s = .next t ∧ t.path.port = .done ∧ t.path.queue = s.path.queue ∧ t.path.delayed = s.path.delayed ∧
      t.path.held = s.path.held ∧ t.cap = s.cap ∧
      NextEvent s t (s.eventRec (if parityError w then .parityDropped else .writeRefused) (areaAt (wordAddr addr)).bay
        ((wordAddr addr).toNat * 4 % 65536) 0)

/-- A write to a CAPTURE word with good parity enters the queue and merges its enabled bytes into staging, whatever it commits; a word that is no
check word and no single-word record changes nothing else (R7, R33). Every order word is taken by its sequence: an equal one ends the handling
without effect and without event, a new one is tested, and the first test that fails refuses it with its reason (R46, R47; the row's name does
not bind the kind the word carries, log 23). A passing clearance pair with the sequence last taken is committed and otherwise ignored, with no
event (R21, R184). -/
def Obligations.CaptureAndOrders : Prop :=
  (∀ c s addr w, writeOf s c = some (addr, w) → Accepts s w → inRegion s.path.base (wordAddr addr) = true →
    isCapture (areaAt (wordAddr addr)) = true →
    (∃ t, exec c s = .next t ∧ t.path.port = .done ∧ t.path.queue = s.path.queue ++ [entryOf (wordAddr addr) w] ∧
      t.cap = (s.stage (areaAt (wordAddr addr)) w.data w.enables).cap ∧
      (areaAt (wordAddr addr) ≠ .settings 15 → t.settings = s.settings) ∧
      (areaAt (wordAddr addr) ≠ .clockSet 2 → t.clockSetCopy = s.clockSetCopy) ∧
      (areaAt (wordAddr addr) ≠ .ack 2 → t.ackCopy = s.ackCopy) ∧
      ((∀ i, areaAt (wordAddr addr) ≠ .classRow i 7) → t.classes = s.classes) ∧
      ((∀ b, areaAt (wordAddr addr) ≠ .planRow b 7) → t.plans = s.plans) ∧
      ((∀ b, areaAt (wordAddr addr) ≠ .order b) → t.orderSeqs = s.orderSeqs)) ∧
    (handsOn (areaAt (wordAddr addr)) = false → ∃ p, exec c s = .next (State.settle { s with
        path := p, cap := (s.stage (areaAt (wordAddr addr)) w.data w.enables).cap }) ∧
      p.port = .done ∧ p.queue = s.path.queue ++ [entryOf (wordAddr addr) w] ∧ p.holds = s.path.holds ∧ p.held = s.path.held ∧
      p.delayed = s.path.delayed.filter (fun e => e.word != wordAddr addr))) ∧
  (∀ c b w s, (c = .lampCheck b w ∨ c = .faultRead b w ∨ c = .faultReadErase b w ∨ c = .cancelHeat b w ∨ c = .cancelChecks b w ∨
      c = .releaseContactor b w ∨ c = .orderUnknownKind b w) → Accepts s w →
    (∃ t, exec c s = .next t ∧ t.orderSeqs = vset s.orderSeqs b (some (bits (orderWord s b w) 0 8)) ∧
      (vget s.orderSeqs b ≠ some (bits (orderWord s b w) 0 8) →
        ∀ r, (match orderKind (orderWord s b w) with
          | .lampCheck => if !s.isAssigned b then some Refused.noPlan else if !s.occupied b then some .empty else if !s.plugged b then some .noPlug
              else if (s.clearance b).state.needsOpen then some .clearanceActive else if (s.act b .lamp).stage != .none then some .busy else none
          | .faultRead | .faultReadErase => if !s.isAssigned b then some .noPlan else if !s.occupied b then some .empty
              else if (s.clearance b).state.needsOpen then some .clearanceActive else if (s.act b .fault).stage != .none then some .busy else none
          | .cancelHeat | .cancelChecks => if !s.isAssigned b then some .noPlan else none
          | .releaseContactor => if (s.ctr b).state != .welded then some .notWelded else if s.fedBack b then some .stillClosed else none
          | .unknown => some .unknownKind) = some r →
          NextEvent s t (s.eventRec .orderRefused (some b) r.code (bits (orderWord s b w) 0 8)))) ∧
    (vget s.orderSeqs b = some (bits (orderWord s b w) 0 8) → ∃ p, exec c s = .next (State.settle { s with
        path := p, cap := { s.cap with orders := vset s.cap.orders b (orderWord s b w) } }) ∧ p.port = .done)) ∧
  (∀ c b w s req r, (c = .clearanceClear b w ∨ c = .clearanceCancel b w) → Reaches s w → s.path.queue.length + 2 ≤ queueCapacity →
    vget s.path.held b = some req → decodeClearance req (mergeWord 0 w.data w.enables) = some r → (s.clearance b).lastSeq = some r.seq →
    ∃ p, exec c s = .next (State.settle { s with path := p, clearanceCopies := vset s.clearanceCopies b (some r) }) ∧ p.port = .done ∧
      p.held = vset s.path.held b none)

/-! ### Reads on the Processor Port -/

/-- A memory read without an entry: with no delay condition it waits for its through read, else it is answered RETRY and delayed while the table has
room (R13, R14). `n` words of a burst under way have been written when it arrives (log 10). -/
def Obligations.ReadFresh : Prop :=
  ∀ addr n s u v, s.path.port.busy = false → u = s.burstTo n → v = wordAddr addr → u.delayedEntry v = none →
    (inRegion u.path.base v = true → u.path.reload = none ∧ isServed (areaAt v) = false) →
    ∃ p, exec (.processorRead addr n) s = .next (State.settle { u with path := p }) ∧ p.queue = u.path.queue ∧ p.holds = u.path.holds ∧
      (u.queued v = false ∧ u.engineHolds = false ∧ u.inPosting v = false → p.port = .waiting v ∧ p.delayed = u.path.delayed) ∧
      (u.queued v = true ∨ u.engineHolds = true ∨ u.inPosting v = true → p.port = .retry ∧
        p.delayed = u.path.delayed ++ (if u.path.delayed.length < delayedCapacity then [⟨v, .pending, 0⟩] else []))

/-- A repeat of a delayed read: READY data is given and the entry freed; a PENDING entry counts the RETRY, and is freed with READ_STARVED when the
count reaches the limit (R16, R22). `n` words of a burst under way have been written when it arrives, and may renew the entry (log 10). -/
def Obligations.ReadRepeated : Prop :=
  ∀ addr n s u v e, s.path.port.busy = false → u = s.burstTo n → v = wordAddr addr → u.delayedEntry v = some e →
    (inRegion u.path.base v = true → u.path.reload = none ∧ isServed (areaAt v) = false) →
    ∃ t, exec (.processorRead addr n) s = .next t ∧ t.path.queue = u.path.queue ∧
      (∀ data par due, e.state = .ready data par due → t.path.port = .doneRead data par ∧
        t.path.delayed = u.path.delayed.filter (fun x => x.word != v) ∧ t.path.holds = holdsAfter u v) ∧
      (e.state = .pending → t.path.port = .retry ∧ t.path.holds = u.path.holds ∧
        (e.count + 1 < u.settings.retry → t.path.delayed = u.path.delayed.map fun x => if x.word == v then { x with count := e.count + 1 } else x) ∧
        (u.settings.retry ≤ e.count + 1 → t.path.delayed = u.path.delayed.filter (fun x => x.word != v) ∧
          (u.path.reload = none → NextEvent u t (u.eventRec .readStarved (u.ownerBay v) (v.toNat * 4 % 65536) 0))))

/-- A read of the clock row or the ring header is answered DONE from live state with generated parity, and every region read during the reload RETRY;
neither leaves anything else beside the words of a burst under way written by then (R9, R29, R64, R210; log 10). -/
def Obligations.ServedRead : Prop :=
  ∀ addr n s u v, s.path.port.busy = false → u = s.burstTo n → v = wordAddr addr → inRegion u.path.base v = true →
    (u.path.reload.isSome = true ∨ isServed (areaAt v) = true) →
    ∃ (x : Port) (y : Option Txn), exec (.processorRead addr n) s = .next (State.settle { u with path := { u.path with port := x, begun := y } }) ∧
      (u.path.reload.isSome = true → x = .retry) ∧
      (u.path.reload = none →
        (∀ k, areaAt v = .clockRow k → x = .doneRead (u.clockWord k) (parityOf (u.clockWord k))) ∧
        (∀ k, areaAt v = .ringHeader k → x = .doneRead (u.ringWord k) (parityOf (u.ringWord k))))

/-! ### The Memory Port -/

/-- A through read gives the processor the word and parity memory holds; a fill read gives them to its PENDING entry, and starts its discard timer, or
drops them when the entry was freed (R13, R15, R22). A discard timer's expiry frees its READY entry with READ_DISCARDED; a hold's expiry puts the
hold off (R17, R22). The time base is then at the deadline at least (log 2). -/
def Obligations.PortReadsAndTimers : Prop :=
  (∀ s v, s.path.port = .waiting v → s.completing .through = true →
    ∃ p, exec .throughReadComplete s = .next (State.settle { s with path := p }) ∧
      p.port = .doneRead (s.mem.word v) (s.mem.wordParity v) ∧ p.holds = holdsAfter s v ∧ p.queue = s.path.queue ∧
      p.delayed = s.path.delayed) ∧
  (∀ s v freed, s.fillInHand = some (v, freed) →
    ∃ p, exec .fillReadComplete s = .next (State.settle { s with path := p }) ∧ p.port = s.path.port ∧ p.queue = s.path.queue ∧
      p.delayed = if freed then s.path.delayed else s.path.delayed.map fun e => if e.word == v && e.state == .pending then
        { e with state := .ready (s.mem.word v) (s.mem.wordParity v) (s.timeBase + s.settings.discard * 5) } else e) ∧
  (∀ v s e data par due, s.delayedEntry v = some e → e.state = .ready data par due →
    ∃ t, exec (.discardTimerExpiry v) s = .next t ∧ t.path.delayed = s.path.delayed.filter (fun x => x.word != v) ∧
      t.path.queue = s.path.queue ∧ t.path.port = s.path.port ∧ t.timeBase = max s.timeBase due ∧
      (s.path.reload = none → NextEvent s t (s.eventRec .readDiscarded (s.ownerBay v) (v.toNat * 4 % 65536) 0))) ∧
  (∀ b s due, vget s.path.holds b = some due →
    exec (.snapshotLimitExpiry b) s =
      .next (State.settle { s with timeBase := max s.timeBase due, path := { s.path with holds := vset s.path.holds b none } }))

/-- A drain writes the enabled bytes and parity bits of the oldest entry, and that entry leaves the queue (R2, R12). That byte i of a word lies at its
byte address plus i is the model's choice (DESIGN CHOICE, log 6), and which transaction a completion completes is log 8. -/
def Obligations.DrainCompletes : Prop :=
  ∀ s e rest, MemoryCanonical s → s.path.queue = e :: rest → s.completing .drain = true →
    ∃ m p, exec .queueDrainComplete s = .next (State.settle { s with mem := m, path := p }) ∧ p.queue = rest ∧
      p.delayed = s.path.delayed ∧ p.port = s.path.port ∧
      (∀ i : Fin 4, e.enables.getLsbD i.val = true →
        m.byte (4 * e.word.toNat + i.val) = byteOf e.data i.val ∧ m.parityAt (4 * e.word.toNat + i.val) = e.parity.getLsbD i.val) ∧
      (∀ a, (∀ i : Fin 4, e.enables.getLsbD i.val = true → a ≠ 4 * e.word.toNat + i.val) →
        m.byte a = s.mem.byte a ∧ m.parityAt a = s.mem.parityAt a)

/-! ### Postings -/

/-- The engine takes from the stream it did not use last where both have work: the oldest event, or the first eligible position after the last one
posted, which leaves the dirty set; the fairness count starts at 0 (R24, R25, R27). With no work it selects nothing. The port passes to the
waiting engine when the fairness count is reached or the processor stream has no work; the posting's image is taken at that instant (R26, R27).
A note of a transaction as begun is dropped at the grant, and that transaction begins anew after the burst (log 8). -/
def Obligations.PostingSelectedAndGranted : Prop :=
  (∀ s, s.post.sel = none → s.path.reload = none →
    ((∀ p, s.eligible p = false) → s.eventWork = false → exec .postingSelect s = .next s.settle) ∧
    (s.eventWork = true → (s.post.lastStream = .row ∨ ∀ p, s.eligible p = false) → exec .postingSelect s =
      .next (State.settle { s with post := { s.post with sel := some ⟨.event, none⟩ }, path := { s.path with fair := 0 } })) ∧
    (∀ k : Fin 32, s.eligible (s.post.lastRow + 1 + k) = true → (∀ j : Fin 32, j < k → s.eligible (s.post.lastRow + 1 + j) = false) →
      (s.post.lastStream = .event ∨ s.eventWork = false) → exec .postingSelect s =
        .next (State.settle { s with post := { s.post with sel := some ⟨.row (s.post.lastRow + 1 + k), none⟩,
                                                           dirty := vset s.post.dirty (s.post.lastRow + 1 + k) false },
                                     path := { s.path with fair := 0 } }))) ∧
  (∀ s tg, s.post.sel = some ⟨tg, none⟩ → s.path.reload = none → (s.settings.fairness ≤ s.path.fair ∨ s.streamTxn = none) →
    exec .postingGrant s = .next (State.settle { s with
      post := { s.post with sel := some ⟨tg, some ⟨match tg with
        | .row p => if h : p.val < 16 then s.statusRow ⟨p.val, h⟩ else s.faultBlock ⟨p.val - 16, by omega⟩
        | .event => match s.ev.buffer with | e :: _ => e.words | [] => [], 0⟩⟩ },
      path := { s.path with begun := none } }))

/-- A burst writes its words in increasing order with generated parity and touches no other byte; complete, it leaves the in-posting state, its row or
stream is recorded, and a posted event leaves the buffer while the producer index advances (R2, R26, R203, R204). -/
def Obligations.BurstCompletes : Prop :=
  ∀ s tg bu base, MemoryCanonical s → BurstWhole s → s.post.sel = some ⟨tg, some bu⟩ →
    base = s.path.base.toNat * 16384 + (match tg with | .row p => 0x1000 + 0x40 * p.val | .event => 0x2000 + 0x10 * (s.ev.producer.toNat % 256)) →
    ∃ t, exec .postingBurstComplete s = .next t ∧ t.post.sel = none ∧ t.path.queue = s.path.queue ∧
      (∀ k v, bu.written ≤ k → bu.image[k]? = some v → t.mem.word (BitVec.ofNat 24 (base / 4 + k)) = v ∧
        t.mem.wordParity (BitVec.ofNat 24 (base / 4 + k)) = parityOf v) ∧
      (∀ a, (a < base + 4 * bu.written ∨ base + 4 * bu.image.length ≤ a) →
        t.mem.byte a = s.mem.byte a ∧ t.mem.parityAt a = s.mem.parityAt a) ∧
      (∀ p, tg = .row p → t.post.lastRow = p ∧ t.post.lastStream = .row ∧ t.ev.producer = s.ev.producer) ∧
      (tg = .event → t.post.lastRow = s.post.lastRow ∧ t.post.lastStream = .event ∧ t.ev.producer = s.ev.producer + 1 ∧
        ∀ i e, i < s.ev.buffer.tail.length → s.ev.buffer.tail[i]? = some e → t.ev.buffer[i]? = some e)

/-! ### Resets and the reload -/

/-- After the reset line every block is as after power-on but for the time base, the clock, the epoch and the running reload; queue and table are
empty and an unanswered read is answered RETRY (R28, R65, R206). After power-on time, clock and epoch are 0 too, no reload runs, and the end
steps have run: lines sampled, a contactor that shows closed in its weld test, all rows dirty (R28, R31, R65, R90, R206). Pins, heads, the port's
last answer and memory outlive both (log 7, log 12, log 36). A drain under way at a reset completes, read data under way is dropped, and the
words of a burst written first stay (R2, R28; log 8, log 10). Those words, in increasing order with generated parity, also renew READY entries of
their words, within a read and at the burst's end (R26, log 10). A reload read stages its word and goes on to the next of the 448; no event
arises and no row is marked. A record read whole with good parity is committed if it passes, one with a parity error in any of its words changes nothing but
staging: the parity found so far goes on from word to word and begins anew after a record's last word.
The last read ends the reload, with lines sampled and all rows dirty (R24, R29, R30, R31). -/
def Obligations.ResetsAndReload : Prop :=
  (∀ r s, exec (.resetLine r) s = .next
      { pending := s.pending, timeBase := s.timeBase, clock := s.clock, mem := s.memoryAtReset r, heads := s.heads, hold := { level := s.hold.level },
        path := { base := r.straps, port := s.path.port.atReset, reload := some {}, begun := some .reload },
        lines := s.lines.map BayLines.atReset, ev := { epoch := s.ev.epoch + 1 } }) ∧
  (∀ r s, ∃ t, exec (.powerOn r) s = .next t ∧ t.timeBase = 0 ∧ t.clock = ⟨false, 0, 0, 0⟩ ∧ t.mem = s.memoryAtReset r ∧ t.ev = {} ∧ t.att = {} ∧
    t.hb = {} ∧ t.path = { base := r.straps, port := s.path.port.atReset } ∧ t.post = { dirty := Vector.replicate 32 true } ∧ t.cap = {} ∧
    t.settings = {} ∧ t.classes = Vector.replicate 32 none ∧ t.plans = Vector.replicate 16 none ∧ t.hold.taken = s.hold.level ∧
    ∀ b, t.bay b = {} ∧ (t.session b).state = .none ∧ (t.clearance b).state = .none ∧ t.claim b = {} ∧
      (t.line b).presence = ⟨(s.line b).presence.level, (s.line b).presence.level, none⟩ ∧
      (t.line b).plug = ⟨(s.line b).plug.level, (s.line b).plug.level, none⟩ ∧
      (t.line b).loop = ⟨(s.line b).loop.level, (s.line b).loop.level, none⟩ ∧
      t.ctr b = if (s.line b).feedback.level then { state := .opening, limit := some contactorLimit, startUp := true } else {}) ∧
  (∀ (r : AtReset) (s : State), (s.engineHolds = false → r.underWay = false → s.memoryAtReset r = s.mem) ∧
    (∀ e rest, s.engineHolds = false → r.underWay = true → (s.path.begun = some .drain ∨ s.path.begun = none ∧ s.nextTxn = some .drain) →
      s.path.queue = e :: rest → s.memoryAtReset r = s.mem.setWord e.word e.data e.enables e.parity) ∧
    (s.engineHolds = false → s.path.begun ≠ some .drain → (s.path.begun = none → s.nextTxn ≠ some .drain) → s.memoryAtReset r = s.mem) ∧
    (s.engineHolds = true → s.path.begun ≠ some .drain → s.memoryAtReset r = (s.burstTo r.burstWords).mem)) ∧
  (∀ (s : State) n tg bu base u, MemoryCanonical s → BurstWhole s → s.post.sel = some ⟨tg, some bu⟩ → u = s.burstTo n →
    base = s.path.base.toNat * 16384 + (match tg with | .row p => 0x1000 + 0x40 * p.val | .event => 0x2000 + 0x10 * (s.ev.producer.toNat % 256)) →
    (∀ (k : Nat) (v : Word), bu.written ≤ k → k < n → bu.image[k]? = some v → u.mem.word (BitVec.ofNat 24 (base / 4 + k)) = v ∧
      u.mem.wordParity (BitVec.ofNat 24 (base / 4 + k)) = parityOf v) ∧
    (∀ a, (a < base + 4 * bu.written ∨ base + 4 * min n bu.image.length ≤ a) → u.mem.byte a = s.mem.byte a ∧ u.mem.parityAt a = s.mem.parityAt a) ∧
    u.path.queue = s.path.queue ∧ u.path.delayed.length = s.path.delayed.length ∧
    (∀ (i : Nat) (e : DEntry), s.path.delayed[i]? = some e → ∃ e' : DEntry, u.path.delayed[i]? = some e' ∧ e'.word = e.word ∧ e'.count = e.count ∧
      (e.state = .pending → e'.state = .pending) ∧
      (∀ d p due, e.state = .ready d p due → ∃ d' p', e'.state = .ready d' p' due ∧
        (∀ (k : Nat) (v : Word), bu.written ≤ k → k < n → bu.image[k]? = some v → e.word.toNat = base / 4 + k → d' = v ∧ p' = parityOf v) ∧
        (e.word.toNat < base / 4 + bu.written ∨ base / 4 + min n bu.image.length ≤ e.word.toNat → d' = d ∧ p' = p))) ∧
    ∃ t, exec .postingBurstComplete s = .next t ∧ t.path.delayed = (s.burstTo bu.image.length).path.delayed) ∧
  (∀ s r v, s.path.reload = some r → s.completing .reload = true → v = wordAt s (reloadOffset r.next) →
    ∃ d : State, exec .reloadReadComplete s = .next d.settle ∧ d.mem = s.mem ∧
      d.cap = (s.stage (areaOf (reloadOffset r.next)) (s.mem.word v) 15).cap ∧
      (r.next + 1 < reloadWords → d.ev = s.ev ∧ d.post = s.post ∧ ∃ r', d.path.reload = some r' ∧ r'.next = r.next + 1 ∧ r'.madeLast = true ∧
        r'.first = s.mem.word v ∧ (r'.parityOk = true ↔
          (areaOf (reloadOffset r.next) = .settings 15 ∨ (∃ c, areaOf (reloadOffset r.next) = .classRow c 7) ∨
            (∃ b, areaOf (reloadOffset r.next) = .planRow b 7) ∨ (∃ b, areaOf (reloadOffset r.next) = .order b) ∨
            ∃ b, areaOf (reloadOffset r.next) = .check b) ∨ r.parityOk = true ∧ s.mem.wordParity v = parityOf (s.mem.word v))) ∧
      (reloadWords ≤ r.next + 1 → d.path.reload = none ∧ d.post.dirty = Vector.replicate 32 true ∧ d.hold.taken = s.hold.level ∧
        (∀ b, d.occupied b = (s.line b).presence.level ∧ d.plugged b = (s.line b).plug.level ∧ d.looped b = (s.line b).loop.level)) ∧
      ((r.parityOk = false ∨ s.mem.wordParity v ≠ parityOf (s.mem.word v)) → d.settings = s.settings ∧ d.classes = s.classes ∧
        d.plans = s.plans ∧ d.orderSeqs = s.orderSeqs ∧ d.clearanceCopies = s.clearanceCopies) ∧
      (r.parityOk = true → s.mem.wordParity v = parityOf (s.mem.word v) →
        (areaOf (reloadOffset r.next) = .settings 15 → d.settings = (decodeSettings d.cap.settings).getD s.settings) ∧
        (∀ c, areaOf (reloadOffset r.next) = .classRow c 7 →
          d.classes = match decodeClass (vget d.cap.classes c) with | some row => vset s.classes c (some row) | none => s.classes) ∧
        (∀ b, areaOf (reloadOffset r.next) = .planRow b 7 →
          (decodePlan s.classes (vget d.cap.plans b) = none → d.plans = s.plans ∧ d.bays = s.bays) ∧
          (∀ row, decodePlan s.classes (vget d.cap.plans b) = some row → d.plans = vset s.plans b (some row) ∧
            (row.enabled = true → (s.bay b).assignment = .unassigned → (d.bay b).assignment = .assigned ∧ (d.bay b).plan = some row ∧
              (d.session b).readyBy = row.readyBy))) ∧
        (∀ b, areaOf (reloadOffset r.next) = .order b → d.orderSeqs = vset s.orderSeqs b (some (bits (s.mem.word v) 0 8)) ∧
          d.lampActs = s.lampActs ∧ d.faultActs = s.faultActs) ∧
        (∀ b, areaOf (reloadOffset r.next) = .check b →
          d.clearanceCopies = (match decodeClearance r.first (s.mem.word v) with
            | some q => vset s.clearanceCopies b (some q) | none => s.clearanceCopies) ∧
          (d.clearance b).lastSeq = (match decodeClearance r.first (s.mem.word v) with | some q => some q.seq | none => (s.clearance b).lastSeq))))

/-- Every bit of what the SJ16 reports: status rows, fault blocks, event slots, the clock row and the ring header, with the codes of section 12.1
(R64, R109, R128, R153, R201, R210, R214). The attention line is on while a latched cause is not masked, the alarm line while one is enabled
(R209). Outside resets and the reload every command that changes a word of a bay's status row or fault block leaves its position dirty, and no
command but a selection makes a position clean (R24, R67, R153). -/
def Obligations.ReportedRows : Prop :=
  let T := fun (t : Option Nat) (field : Nat) =>
    BitVec.ofNat 32 ((match t with | some m => 0x80000000 + m % 0x8000000 | none => 0) + 0x8000000 * field)
  let M := fun (t : Option TimeOfDay) => t.map fun x => x.day * 1440 + x.sec / 60
  (∀ (s : State) (b : Bay),
    let r := s.bay b; let k := s.ctr b; let c := s.claim b; let x := s.session b; let q := s.clearance b
    let l := s.act b .lamp; let f := s.act b .fault; let w := s.lampWorkOf b; let m := s.summary b; let g := s.lampResult b
    s.statusRow b = [
      BitVec.ofNat 32 (r.assignment.code + 0x4 * (s.occupied b).toNat + 0x8 * (s.plugged b).toNat + 0x10 * (s.looped b).toNat + 0x20 * k.state.code +
        0x100 * (s.fedBack b).toNat + 0x200 * k.heat.toNat + 0x400 * k.lamp.toNat + 0x800 * k.pilot.toNat + 0x1000 * r.proceed.toNat +
        0x2000 * r.autoLamp.toNat + 0x4000 * r.autoFault.toNat + 0x8000 * (match r.plan with | some p => p.classIx.val | none => 0) +
        0x100000 * (match r.plan with | some p => p.run | none => 0)),
      BitVec.ofNat 32 (match r.seen with | some y => y.id + 0x100000 * y.code | none => 0),
      BitVec.ofNat 32 ((match r.plan with | some p => p.coachId | none => 0) + 0x100000 * (match q.request with | some y => y.run | none => 0)),
      BitVec.ofNat 32 (c.standing.getD 0 + 0x100 * (match c.heat with | some h => h.amount | none => 0) + 0x10000 * c.lamp.getD 0 +
        0x1000000 * c.standing.isSome.toNat + 0x2000000 * c.heat.isSome.toNat + 0x4000000 * c.lamp.isSome.toNat +
        0x8000000 * (c.heat.any fun h => h.urgent).toNat),
      BitVec.ofNat 32 (x.state.code + 0x8 * (match x.ending with | some e => e.code | none => 0) + 0x40 * x.required + 0x4000 * x.shown +
        0x400000 * q.lastSeq.getD 0 + 0x40000000 * q.lastSeq.isSome.toNat),
      T x.readyBy (x.pauseShed.toNat + 2 * x.pausePlug.toNat + 4 * x.phase.code),
      T x.start (x.late.toNat + 2 * x.lateReported.toNat + 4 * x.frozen.toNat),
      BitVec.ofNat 32 (l.stage.code + 0x8 * (match l.origin with | some o => o.code | none => 0) + 0x20 * f.stage.code +
        0x100 * (match f.origin with | some o => o.code | none => 0) + 0x400 * (f.variant == .readErase).toNat +
        0x800 * (match (List.finRange 4).find? fun n => (s.link n).select == some b with | some n => n.val | none => 7) +
        0x4000 * (match (List.finRange 2).find? fun n => (s.lampCh n).select == some b with | some n => n.val | none => 3) +
        0x10000 * (match w.step with | some p => p.code | none => 0) +
        0x80000 * (if w.step = some .groupOn ∨ w.step = some .groupOff then (match w.group with | some n => n.val | none => 0) else 0) +
        0x400000 * m.total.getD 127 + 0x20000000 * (match m.worst with | some v => v.code | none => 0)),
      (match g.findings with
        | some v => BitVec.ofNat 32 (((List.finRange 8).map fun n => 16 ^ n.val *
            (match vget v n with | some y => y.dark.toNat + 2 * y.cross.toNat + 4 * y.stuck.toNat | none => 8)).sum)
        | none => 0),
      T (M g.judgeTime) ((match g.judged with | some j => j.code | none => 0) + 4 * (match g.origin with | some o => o.code | none => 0)),
      T (M g.outcomeTime) (match g.outcome with | some e => e.code | none => 0),
      T (M m.completeTime) ((match m.variant with | some v => v.code | none => 0) + 4 * m.overflow.toNat + 8 * m.eraseRefused.toNat),
      T (M m.outcomeTime) (match m.outcome with | some e => e.code | none => 0),
      T (M q.clearedTime) (q.state.code + 8 * (match q.request with | some y => y.waiver.toNat | none => 0)),
      T (M q.outcomeTime) (match q.outcome with | some o => o.code | none => 0),
      BitVec.ofNat 32 (q.failing.toNat % 0x800 + 0x800 * q.reasons.toNat + 0x4000000 * m.count)]) ∧
  (∀ (s : State) (b : Bay), (s.faultBlock b).length = 16 ∧ ∀ k : Fin 8,
    ((s.faultBlock b)[2 * k.val]?, (s.faultBlock b)[2 * k.val + 1]?) = match vget (s.table b).slots k with
      | some x => (some (BitVec.ofNat 32 (0x10000 * x.code + 0x100 * x.count + 0x40 * x.severity.code + 0x20 * x.active.toNat)), some (T (M x.time) 0))
      | none => (some 0, some 0)) ∧
  (∀ e : EventRec, e.words = [e.stamp,
    BitVec.ofNat 32 (e.kind.code + 0x100 * e.kind.cause.val + 0x1000 * (match e.bay with | some b => b.val | none => 0) + 0x10000 * e.detail.toNat),
    BitVec.ofNat 32 ((match e.time with | some t => t.day | none => 0) + 0x10000 * e.seq.toNat),
    BitVec.ofNat 32 ((match e.time with | some t => t.sec | none => 0) + 0x40000000 * e.bay.isSome.toNat + 0x80000000 * e.time.isSome.toNat)]) ∧
  (∀ s : State, (List.range 4).map s.clockWord =
    [BitVec.ofNat 32 (0x80000000 * s.clock.valid.toNat + (s.clock.day * 1440 + s.clock.sec / 60)), BitVec.ofNat 32 s.clock.day,
     BitVec.ofNat 32 s.clock.sec, BitVec.ofNat 32 (s.timeBase / 10)]) ∧
  (∀ s : State, (List.range 8).map s.ringWord =
    [BitVec.ofNat 32 (0x10000 * s.ev.producer.toNat + s.ev.consumer.toNat), s.ev.missed,
     BitVec.ofNat 32 (s.ev.epoch.toNat + 0x10000 * s.hb.state.code), BitVec.ofNat 32 (s.att.latches.toNat + 0x10000 * s.settings.mask.toNat),
     BitVec.ofNat 32 s.settings.target, BitVec.ofNat 32 s.effective, BitVec.ofNat 32 s.granted, 0]) ∧
  ([Kind.cleared, .withheld, .lapsed, .revoked, .cancelled, .suspended, .departed, .unauthorisedDeparture, .plugPulled, .heatStarted, .heatComplete,
    .heatLate, .heatEnded, .lampResult, .faultResult, .contactorNoClose, .contactorWeld, .contactorReleased, .feedbackUnexpected, .claimShed,
    .supplyTimeout, .budgetReached, .parityDropped, .writeRefused, .readDiscarded, .readStarved, .rowRejected, .orderRefused, .indexInvalid, .clockSet,
    .clockTrimmed, .supervisorSilent, .supervisorBack, .holdOn, .holdOff].map (fun k => (k.code, k.cause.val)) =
   [0x00, 0x01, 0x02, 0x03, 0x04, 0x05, 0x10, 0x20, 0x21, 0x30, 0x31, 0x32, 0x33, 0x40, 0x41, 0x50, 0x51, 0x52, 0x53, 0x60, 0x61, 0x62, 0x70, 0x71,
    0x72, 0x73, 0x74, 0x75, 0x76, 0x77, 0x78, 0x80, 0x81, 0x90, 0x91].map fun n => (n, n / 16)) ∧
  ([Assignment.unassigned, .assigned, .departed].map Assignment.code = [0, 1, 2] ∧
   [CtrState.open, .closing, .closed, .opening, .failedClose, .welded].map CtrState.code = [0, 1, 2, 3, 4, 5] ∧
   [SState.none, .booked, .waiting, .heating, .paused, .complete, .ended, .failed].map SState.code = [0, 1, 2, 3, 4, 5, 6, 7] ∧
   [Phase.noEntry, .listed, .granted].map Phase.code = [0, 1, 2] ∧
   [HeatEnd.cancelled, .bookingRemoved, .planChanged, .departed, .waived, .noClose, .welded].map HeatEnd.code = [1, 2, 3, 4, 5, 6, 7] ∧
   [Stage.none, .supply, .queued, .running, .closing].map Stage.code = [0, 1, 2, 3, 4] ∧
   [Origin.order, .auto, .clearance].map Origin.code = [1, 2, 3] ∧
   [LampStep.power, .link, .baseline, .groupOn, .groupOff].map LampStep.code = [1, 2, 3, 4, 5] ∧
   [EndCode.pass, .passWithNotes, .fail, .complete, .linkFailed, .noSupply, .noChannel, .ambient, .noWake, .identity, .plugOut, .empty, .cancelled,
    .refused, .badRecord].map EndCode.code = [1, 2, 3, 4, 5, 6, 7, 8, 9, 10, 11, 12, 13, 14, 15] ∧
   [Severity.info, .advise, .blocking].map Severity.code = [1, 2, 3] ∧ [Variant.read, .readErase].map Variant.code = [1, 2] ∧
   [Judged.pass, .passWithNotes, .fail].map Judged.code = [1, 2, 3] ∧
   [ClrState.none, .preparing, .cleared, .suspended, .departing].map ClrState.code = [0, 1, 2, 3, 4] ∧
   [ClrOutcome.withheld, .lapsed, .revoked, .cancelled, .departed].map ClrOutcome.code = [1, 2, 3, 4, 5] ∧
   [Supervisor.awaiting, .live, .silent].map Supervisor.code = [0, 1, 2]) ∧
  (∀ s : State, (s.attentionLine = true ↔ ∃ c : Fin 10, s.att.latches.getLsbD c.val = true ∧ s.settings.mask.getLsbD c.val = false) ∧
    (s.alarmLine = true ↔ ∃ c : Fin 10, s.att.latches.getLsbD c.val = true ∧ s.settings.alarm.getLsbD c.val = true)) ∧
  (∀ c s t, isReset c = false → s.path.reload = none → exec c s = .next t →
    (∀ b : Bay, (t.statusRow b ≠ s.statusRow b → vget t.post.dirty ⟨b.val, by omega⟩ = true) ∧
      (t.faultBlock b ≠ s.faultBlock b → vget t.post.dirty ⟨16 + b.val, by omega⟩ = true)) ∧
    (c ≠ .postingSelect → ∀ p, vget s.post.dirty p = true → vget t.post.dirty p = true))

/-! ### Captured records -/

/-- A settings check word tests the whole image: a passing record becomes the settings in force, a failing one leaves them and raises ROW_REJECTED
(R35, R38, R39). A class check word commits or rejects its row, and no other (R35, R40, R41). What an image must be to pass is RowCheckAccepts'. A
changed target recomputes the effective budget, asks for an examination or a shedding, and ends a period above the target with BUDGET_REACHED (R91 to
R93); a changed quantum sets the mark and timer of every held HEAT component by the time held, and asks for the test of preemption (R104); a changed
band, and a class commit for the bays whose plan copy names the class, recompute the unfrozen BOOKED and WAITING sessions (R39, R41, R113), and the
class commit asks for those bays' vetting (R188). An unchanged field has no effect (R39), and a class commit leaves granted amounts (R41). That the
target is taken before the quantum and both before the band is log 17 (DESIGN CHOICE); what is asked for, settle does (log 15). -/
def Obligations.SettingsAndClassCommit : Prop :=
  (∀ w s, Accepts s w → ∃ t, exec (.settingsCommit w) s = .next t ∧ t.cap.settings = vset s.cap.settings 15 (mergeWord (vget s.cap.settings 15) w.data w.enables) ∧
    (∀ n, decodeSettings t.cap.settings = some n → t.settings = n) ∧
    (decodeSettings t.cap.settings = none → t.settings = s.settings ∧
      NextEvent s t (s.eventRec .rowRejected none ((regionAddr s.path.base 0x3C).toNat % 65536) 0))) ∧
  (∀ w s n, Accepts s w → decodeSettings (vset s.cap.settings 15 (mergeWord (vget s.cap.settings 15) w.data w.enables)) = some n →
    ∃ d : State, exec (.settingsCommit w) s = .next d.settle ∧ d.settings = n ∧ d.horizon = s.horizon ∧ d.hb = s.hb ∧
      (n.target ≠ s.settings.target → d.effective = max n.target d.granted ∧ d.agenda.admission = true ∧
        (s.settings.target < s.effective → s.granted ≤ n.target → NextEvent s d (s.eventRec .budgetReached none n.target 0))) ∧
      (n.quantum ≠ s.settings.quantum → d.agenda.preempt = true ∧ ∀ b h, (s.claim b).heat = some h → n.band = s.settings.band ∨ (d.claim b).heat ≠ none →
        (d.claim b).heat = some { h with hold := if h.since + n.quantum * minute ≤ s.timeBase then none else some (h.since + n.quantum * minute),
                                         eligible := decide (h.since + n.quantum * minute ≤ s.timeBase) }) ∧
      (n.band = s.settings.band → d.sessions = s.sessions ∧ d.granted = s.granted ∧
        (n.target = s.settings.target → d.effective = s.effective ∧ d.ev = s.ev) ∧ (n.quantum = s.settings.quantum → d.claims = s.claims) ∧
        (n.target = s.settings.target → n.quantum = s.settings.quantum → d.agenda = s.agenda)) ∧
      (n.band ≠ s.settings.band → ∀ b, (∀ p c, (s.bay b).plan = some p → vget s.classes p.classIx = some c → (s.session b).frozen = false →
          ((s.session b).state = .booked ∨ (s.session b).state = .waiting) → Computed s b (s.session b) (bandMinutes c n.band) (d.session b)) ∧
        ((s.session b).frozen = true ∨ (s.session b).state ≠ .booked ∧ (s.session b).state ≠ .waiting → d.session b = s.session b))) ∧
  (∀ c w s, Accepts s w → ∃ t, exec (.classCommit c w) s = .next t ∧
    (∀ r, decodeClass (vget t.cap.classes c) = some r → t.classes = vset s.classes c (some r)) ∧
    (decodeClass (vget t.cap.classes c) = none → t.classes = s.classes ∧
      NextEvent s t (s.eventRec .rowRejected none ((regionAddr s.path.base (0x21C + 0x20 * c.val)).toNat % 65536) 0))) ∧
  (∀ c w s r, Accepts s w →
    decodeClass (vset (vget s.cap.classes c) 7 (mergeWord (vget (vget s.cap.classes c) 7) w.data w.enables)) = some r →
    ∃ d : State, exec (.classCommit c w) s = .next d.settle ∧ d.classes = vset s.classes c (some r) ∧ d.bays = s.bays ∧ ∀ b,
      (∀ a, (d.claim b).standing = some a → (s.claim b).standing = some a) ∧ (∀ h, (d.claim b).heat = some h → (s.claim b).heat = some h) ∧
      (d.claim b).lamp = (s.claim b).lamp ∧
      (∀ p, (s.bay b).plan = some p → p.classIx = c → vget d.agenda.vet b = true ∧
        ((s.session b).frozen = false → (s.session b).state = .booked ∨ (s.session b).state = .waiting →
          Computed s b (s.session b) (bandMinutes r s.settings.band) (d.session b)) ∧
        ((s.session b).frozen = true ∨ (s.session b).state ≠ .booked ∧ (s.session b).state ≠ .waiting → d.session b = s.session b)) ∧
      ((∀ p, (s.bay b).plan = some p → p.classIx ≠ c) →
        d.session b = s.session b ∧ d.claim b = s.claim b ∧ vget d.agenda.vet b = vget s.agenda.vet b))

/-- What the row check accepts, record by record, and the record it then gives: the tag and the sum (R34), every field in its range and under its
conditions (R38, R40, R42, R49, R52, R53, R214), every bit that no field names zero (R213), and of a plan row with bay enabled = no the tag, the sum
and bit 0 alone (R42). Written as the words of the record: an image passes with the record whose fields it carries, and no other image passes. A
disabled plan row is held with no other field (log 27). -/
def Obligations.RowCheckAccepts : Prop :=
  let check := fun (tag : Nat) (l : List Word) =>
    (l.getLastD 0).toNat / 65536 = tag ∧ (l.map fun w => w.toNat % 65536 + w.toNat / 65536).sum % 65536 = 0
  let word := fun (w : Word) (n : Nat) => w.toNat = n
  let D := fun (t : Option Nat) (w : Word) => (t = none ∧ w = 0) ∨
    ∃ day min, day < 65536 ∧ min < 1440 ∧ t = some (day * 1440 + min) ∧ w.toNat = 0x80000000 + 0x10000 * min + day
  (∀ (v : Vector Word 16) (r : Settings), decodeSettings v = some r ↔ check 0x6A01 v.toList ∧
    word (vget v 0) (r.target + 0x10000 * r.band) ∧ word (vget v 1) (r.horizon + 0x100 * r.checkLead + 0x10000 * r.lampFresh + 0x1000000 * r.faultFresh) ∧
    word (vget v 2) (r.lapse + 0x100 * r.prep + 0x10000 * r.quantum + 0x1000000 * r.heartbeat) ∧
    word (vget v 3) (r.fairness + 0x100 * r.discard + 0x10000 * r.retry) ∧ word (vget v 4) (r.mask.toNat + 0x10000 * r.alarm.toNat) ∧
    (∀ k : Fin 16, 5 ≤ k.val → k.val ≤ 14 → vget v k = 0) ∧ r.target ≤ 4095 ∧ r.band ≤ 3 ∧ r.horizon ≤ 240 ∧ r.checkLead ≤ 240 ∧
    1 ≤ r.lampFresh ∧ r.lampFresh ≤ 255 ∧ 1 ≤ r.faultFresh ∧ r.faultFresh ≤ 255 ∧ 1 ≤ r.lapse ∧ r.lapse ≤ 30 ∧ 1 ≤ r.prep ∧ r.prep ≤ 30 ∧
    r.quantum ≤ 60 ∧ 2 ≤ r.heartbeat ∧ r.heartbeat ≤ 60 ∧ 1 ≤ r.fairness ∧ r.fairness ≤ 16 ∧ 1 ≤ r.discard ∧ r.discard ≤ 16 ∧
    16 ≤ r.retry ∧ r.retry ≤ 255) ∧
  (∀ (v : Vector Word 8) (r : ClassRow), decodeClass v = some r ↔ check 0x6A10 v.toList ∧
    word (vget v 0) (r.code + 0x100 * r.standing + 0x10000 * r.heat + 0x1000000 * r.lamp) ∧
    word (vget v 1) (vget r.heatMin 0 + 0x100 * vget r.heatMin 1 + 0x10000 * vget r.heatMin 2 + 0x1000000 * vget r.heatMin 3) ∧
    word (vget v 2) (r.rate + 0x100 * r.wake + 0x10000 * r.present.toNat + 0x1000000 * r.critical.toNat) ∧ word (vget v 3) r.flashing.toNat ∧
    vget v 4 = vget r.expected 3 ++ vget r.expected 2 ++ vget r.expected 1 ++ vget r.expected 0 ∧
    vget v 5 = vget r.expected 7 ++ vget r.expected 6 ++ vget r.expected 5 ++ vget r.expected 4 ∧ vget v 6 = 0 ∧
    r.code ≤ 255 ∧ r.standing ≤ 255 ∧ r.heat ≤ 255 ∧ r.lamp ≤ 255 ∧ (∀ b, vget r.heatMin b ≤ 255) ∧ r.rate ≤ 5 ∧ 1 ≤ r.wake ∧ r.wake ≤ 60 ∧
    ∀ g : Group, (r.critical.getLsbD g.val = true ∨ r.flashing.getLsbD g.val = true → r.present.getLsbD g.val = true) ∧
      (r.present.getLsbD g.val = true → vget r.expected g ≠ 0)) ∧
  (∀ (classes : Vector (Option ClassRow) 32) (v : Vector Word 8) (r : PlanRow), decodePlan classes v = some r ↔ check 0x6A20 v.toList ∧
    (r = {} ∧ (vget v 0).getLsbD 0 = false ∨
     r.enabled = true ∧ word (vget v 0) (1 + 2 * r.autoChecks.toNat + 0x100 * r.classIx.val) ∧ word (vget v 1) (r.coachId + 0x100000 * r.run) ∧
     D r.roster (vget v 2) ∧ D r.readyBy (vget v 3) ∧ vget v 4 = 0 ∧ vget v 5 = 0 ∧ vget v 6 = 0 ∧
     1 ≤ r.coachId ∧ r.coachId ≤ 999999 ∧ r.run ≤ 4095 ∧ (vget classes r.classIx).isSome = true)) ∧
  (∀ (v : Vector Word 3) (r : ClockSetRow), decodeClockSet v = some r ↔ check 0x6A02 v.toList ∧ word (vget v 0) r.day ∧ word (vget v 1) r.sec ∧
    r.day ≤ 65535 ∧ r.sec ≤ 86399) ∧
  (∀ (v : Vector Word 3) (r : AckRow), decodeAck v = some r ↔ check 0x6A03 v.toList ∧ word (vget v 0) r.causes.toNat ∧ vget v 1 = r.stamp) ∧
  (∀ (req chk : Word) (r : ClearRow), decodeClearance req chk = some r ↔ check 0x6A30 [req, chk] ∧
    word req (r.seq + 0x100 * (match r.action with | .clear => 1 | .cancel => 2) + 0x400 * r.waiver.toNat + 0x10000 * r.run) ∧
    r.seq ≤ 255 ∧ r.run ≤ 4095)

/-- A clock-set commit takes day and second, zeroes the phase and makes the clock VALID, with a minute event and CLOCK_SET. A trim of a VALID clock
goes to the start of the same minute, or of the next with a minute event, and raises CLOCK_TRIMMED; of an INVALID one it does nothing at all. A
second that begins a minute makes a minute event (R49, R50, R57 to R59). At a minute event roster times and horizon come into use, every level
follows them, every clearance is to be vetted, BOOKED sessions whose start time has been reached start or complete, sessions in NO_ENTRY that
need supply ask again, live sessions past their ready-by time raise HEAT_LATE once, and AUTO checks due by the roster begin (R57, R100, R115, R116,
R120, R188, R199). The time of a second by log 2 and log 4, the order within the event by log 17, AUTO checks before the vettings by log 31
(DESIGN CHOICE), and the vettings left to settle by log 15 (DESIGN CHOICE). A session with no heat to give asks by log 38 and completes at the
minute event by log 25 (DEDUCED), before its lateness is tested by log 46 (DESIGN CHOICE). CLOCK_TRIMMED after the events of the receivers is log 45
(DESIGN CHOICE). -/
def Obligations.ClockSetAndTrim : Prop :=
  (∀ w s, Accepts s w → ∃ t, exec (.clockSetCommit w) s = .next t ∧ t.cap.clockSet = vset s.cap.clockSet 2 (mergeWord (vget s.cap.clockSet 2) w.data w.enables) ∧
    (∀ r, decodeClockSet t.cap.clockSet = some r → t.clockSetCopy = some r ∧ t.clock = ⟨true, r.day, r.sec, s.timeBase⟩) ∧
    (decodeClockSet t.cap.clockSet = none → t.clockSetCopy = s.clockSetCopy ∧ t.clock = s.clock ∧
      NextEvent s t (s.eventRec .rowRejected none ((regionAddr s.path.base 0x48).toNat % 65536) 0))) ∧
  (∀ w s r v, Accepts s w → v = vset s.cap.clockSet 2 (mergeWord (vget s.cap.clockSet 2) w.data w.enables) → decodeClockSet v = some r →
    ∃ p u, u = State.minuteEvent { s with path := p, cap := { s.cap with clockSet := v }, clockSetCopy := some r, clock := ⟨true, r.day, r.sec, s.timeBase⟩ } ∧
      exec (.clockSetCommit w) s = .next (u.raise .clockSet none r.day).settle) ∧
  (∀ w s, Accepts s w → ∃ p, ∀ v k sec, v = { s with path := p, cap := { s.cap with trim := mergeWord s.cap.trim w.data w.enables } } →
    k = s.clock.sec % 60 → sec = s.clock.sec - k →
    (s.clock.valid = false → exec (.clockTrim w) s = .next v.settle) ∧
    (s.clock.valid = true → k < 30 →
      exec (.clockTrim w) s = .next (State.settle (State.raise { v with clock := ⟨true, s.clock.day, sec, s.timeBase⟩ } .clockTrimmed none k))) ∧
    (s.clock.valid = true → 30 ≤ k → exec (.clockTrim w) s = .next (State.settle (State.raise (State.minuteEvent { v with clock :=
      (if sec + 60 < 86400 then ⟨true, s.clock.day, sec + 60, s.timeBase⟩ else ⟨true, (s.clock.day + 1) % 65536, 0, s.timeBase⟩) }) .clockTrimmed none k)))) ∧
  (∀ s v : State, s.clock.valid = true → v = { s with timeBase := max s.timeBase (s.clock.phaseFrom + second), clock := ⟨true,
      if s.clock.sec < 86399 then s.clock.day else (s.clock.day + 1) % 65536, if s.clock.sec < 86399 then s.clock.sec + 1 else 0,
      s.clock.phaseFrom + second⟩ } → exec .secondAdvance s = .next (if v.clock.sec % 60 = 0 then v.minuteEvent.settle else v.settle)) ∧
  (∀ s : State, s.path.reload.isSome = true → s.minuteEvent = s) ∧
  (∀ s u : State, s.path.reload = none → u = s.minuteEvent →
    u.clock = s.clock ∧ u.timeBase = s.timeBase ∧ u.horizon = s.settings.horizon ∧ (∀ b, vget u.agenda.vet b = true) ∧
    (∀ e ∈ u.admList, e.urgent = (e.purpose == .lamp || u.rosterNear e.bay)) ∧
    (∀ b h, (u.claim b).heat = some h → h.urgent = u.rosterNear b) ∧
    ∀ b x, x = s.session b → (u.bay b).roster = (match (s.bay b).plan with | some p => p.roster | none => none) ∧
      (x.state = .booked → x.required ≠ 0 → s.startReached b = true → s.isAssigned b = true → s.occupied b = true → s.plugged b = true →
        (u.session b).state = .waiting ∧ (u.session b).late = s.afterStart b) ∧
      (x.state = .booked ∨ x.state = .waiting → x.required = 0 → s.startReached b = true →
        (u.session b).state = .complete ∧ (u.session b).late = s.afterStart b ∧ (u.session b).phase = .noEntry) ∧
      (x.state = .booked → s.startReached b = false → (u.session b).state = .booked) ∧
      (x.phase = .noEntry → (x.state = .waiting ∧ (x.required ≠ 0 ∨ s.startReached b = false) ∨
          x.state = .paused ∧ x.pauseShed = true ∧ x.pausePlug = false) →
        s.barred b .heat = false → s.admEntry b .heat = none → (s.claim b).heat = none →
        (u.session b).phase = .listed ∧ ∃ e, u.admEntry b .heat = some e ∧ ∀ n, x.arrival = some n → e.arrival = n) ∧
      ((u.session b).state.live = true → x.lateReported = false → x.readyBy.any (fun t => s.reached t) = true →
        (u.session b).lateReported = true ∧ (u.ev.buffer.length < bufferCapacity → ∃ e ∈ u.ev.buffer, e.kind = .heatLate ∧ e.bay = some b ∧
          e.detail = BitVec.ofNat 16 ((x.required * minute - (if x.since = none then s.accumulated b else min (s.accumulated b) (x.required * minute - 1)) +
            (minute - 1)) / minute))) ∧
      (∀ p t, (s.bay b).plan = some p → p.autoChecks = true → p.roster = some t → s.reached (minusMinutes t s.settings.checkLead) = true →
        s.isAssigned b = true → s.occupied b = true → ((s.clearance b).state = .none ∨ (s.clearance b).state = .preparing) →
        ((u.bay b).autoLamp = ((s.bay b).autoLamp || (!s.freshLamp b && (s.act b .lamp).stage == .none && s.plugged b))) ∧
        ((u.bay b).autoFault = ((s.bay b).autoFault || (!s.freshRead b && (s.act b .fault).stage == .none))) ∧
        ((s.bay b).autoLamp = false → s.freshLamp b = false → (s.act b .lamp).stage = .none → s.plugged b = true → s.barred b .lamp = false →
          s.admEntry b .lamp = none → (s.claim b).lamp = none → (u.act b .lamp).stage = .supply ∧ (u.act b .lamp).origin = some .auto) ∧
        ((s.bay b).autoFault = false → s.freshRead b = false → (s.act b .fault).stage = .none → s.chanEntry b .fault = none → s.linkOf b .fault = none →
          (u.act b .fault).stage = .queued ∧ (u.act b .fault).origin = some .auto ∧ (u.act b .fault).variant = .read)))

/-- While the clock is VALID each full second of the time base advances it by one, over midnight and the last day; an INVALID clock does not advance,
and a clock-set commit makes it VALID (R49, R58). Only power-on makes a VALID clock INVALID, and the reset line leaves all four items (R55). The
time base of a second is log 2, and the phase that keeps the excess is log 4. -/
def Obligations.ClockAdvances : Prop :=
  (∀ s, s.clock.valid = true → ∃ t, exec .secondAdvance s = .next t ∧ t.timeBase = max s.timeBase (s.clock.phaseFrom + second) ∧
    t.clock = ⟨true, if s.clock.sec < 86399 then s.clock.day else (s.clock.day + 1) % 65536, if s.clock.sec < 86399 then s.clock.sec + 1 else 0,
      s.clock.phaseFrom + second⟩) ∧
  (∀ s, s.clock.valid = false → exec .secondAdvance s = .next s.settle) ∧
  (∀ w s r, Accepts s w → decodeClockSet (vset s.cap.clockSet 2 (mergeWord (vget s.cap.clockSet 2) w.data w.enables)) = some r →
    ∃ t, exec (.clockSetCommit w) s = .next t ∧ t.clock.valid = true) ∧
  (∀ c s t, s.clock.valid = true → (∀ r, c ≠ .powerOn r) → exec c s = .next t → t.clock.valid = true) ∧
  (∀ r s t, exec (.powerOn r) s = .next t → t.clock = ⟨false, 0, 0, 0⟩) ∧
  (∀ r s t, exec (.resetLine r) s = .next t → t.clock = s.clock)

/-- A plan check word commits or rejects its row. A committed row is a new assignment, an amendment, a withdrawal or nothing, by the coach and class
of the plan copy held (R35, R42, R43, R44, R45, R70). A new assignment with a ready-by time creates a session (R114), and an amendment acts on the
session by R126's table. The premise is the law of R88 that every step keeps. The roster time in use, taken at once by a new assignment and left
standing by an amendment, is log 18 (DEDUCED). -/
def Obligations.PlanCommit : Prop :=
  ∀ b w s, SignalLaw s → Accepts s w → ∃ d : State, exec (.planCommit b w) s = .next d.settle ∧
    d.cap.plans = vset s.cap.plans b (vset (vget s.cap.plans b) 7 (mergeWord (vget (vget s.cap.plans b) 7) w.data w.enables)) ∧
    (decodePlan s.classes (vget d.cap.plans b) = none → d.plans = s.plans ∧ d.bays = s.bays ∧
      NextEvent s d (s.eventRec .rowRejected (some b) ((regionAddr s.path.base (0x61C + 0x20 * b.val)).toNat % 65536) 0)) ∧
    (∀ row, decodePlan s.classes (vget d.cap.plans b) = some row → d.plans = vset s.plans b (some row) ∧
      (row.enabled = false → (s.bay b).assignment = .unassigned → d.bay b = s.bay b ∧ d.session b = s.session b) ∧
      (row.enabled = false → (s.bay b).assignment ≠ .unassigned →
        d.bay b = {} ∧ (d.clearance b).state = .none ∧ (d.table b).slots = Vector.replicate 8 none ∧ d.lampResult b = {}) ∧
      (∀ old, row.enabled = true → (s.bay b).assignment = .assigned → (s.bay b).plan = some old → old.coachId = row.coachId →
        old.classIx = row.classIx → d.bay b = { s.bay b with plan := some row } ∧ d.table b = s.table b ∧ d.lampResult b = s.lampResult b ∧
        d.clearance b = s.clearance b ∧ ∀ x c m, x = s.session b → vget s.classes row.classIx = some c → m = bandMinutes c s.settings.band →
          (old.readyBy = row.readyBy → d.session b = x) ∧
          (∀ t, old.readyBy = some t → row.readyBy = none →
            (x.state.live = true → (d.session b).state = .ended ∧ (d.session b).ending = some .bookingRemoved) ∧
            (x.state.live = false → d.session b = {})) ∧
          (∀ n, old.readyBy = none → row.readyBy = some n → x.state.live = false →
            Computed s b { state := .booked, readyBy := some n } m (d.session b)) ∧
          (∀ t n, old.readyBy = some t → row.readyBy = some n → t ≠ n →
            (x.state.live = false → Computed s b { state := .booked, readyBy := some n } m (d.session b)) ∧
            ((x.state = .booked ∨ x.state = .waiting) → x.frozen = false →
              Computed s b { x with readyBy := some n, lateReported := false } m (d.session b)) ∧
            (x.state = .waiting ∧ x.frozen = true ∨ x.state = .heating ∨ x.state = .paused →
              d.session b = { x with readyBy := some n, lateReported := false }))) ∧
      (row.enabled = true → ((s.bay b).assignment ≠ .assigned ∨ ∃ old, (s.bay b).plan = some old ∧
          (old.coachId ≠ row.coachId ∨ old.classIx ≠ row.classIx)) →
        d.bay b = { assignment := .assigned, plan := some row, roster := row.roster } ∧ (d.clearance b).state = .none ∧
        (d.table b).slots = Vector.replicate 8 none ∧ d.lampResult b = {} ∧ (d.session b).readyBy = row.readyBy ∧
        (row.readyBy = none → d.session b = {}) ∧ ∀ n c, row.readyBy = some n → vget s.classes row.classIx = some c →
          Computed { s with bays := d.bays } b { state := .booked, readyBy := some n } (bandMinutes c s.settings.band) (d.session b)))

/-- An acknowledge record clears the latch of each named cause whose newest stamp is absent or not newer than its stamp and whose level condition is
absent or false; other latches, the newest stamps and the events stay (R52, R208). -/
def Obligations.AcknowledgeCommit : Prop :=
  ∀ w s r, Accepts s w → decodeAck (vset s.cap.ack 2 (mergeWord (vget s.cap.ack 2) w.data w.enables)) = some r →
    ∃ d : State, exec (.acknowledgeCommit w) s = .next d.settle ∧ d.ackCopy = some r ∧ d.att.newest = s.att.newest ∧ d.ev = s.ev ∧
      ∀ c : Fin 10, d.att.latches.getLsbD c.val = (s.att.latches.getLsbD c.val &&
        !(r.causes.getLsbD c.val && (match vget s.att.newest c with | none => true | some n => !decide (1 ≤ (n - r.stamp).toNat ∧ (n - r.stamp).toNat ≤ 2147483647)) &&
          !((c == 5 && (List.finRange 16).any fun b => (s.ctr b).state == .welded) || (c == 8 && s.hb.state != .live) || (c == 9 && s.hold.taken))))

/-- A progress write is a heartbeat whatever its index, and its index is taken when it lies at most 256 behind the producer index, or refused with
INDEX_INVALID (R51, R205, R211); after either reset the index is 0. The heartbeat timer's expiry makes the supervisor SILENT, with
SUPERVISOR_SILENT and the period that ran (R211). INDEX_INVALID comes before SUPERVISOR_BACK (log 17); the instant of the expiry is log 2. -/
def Obligations.HeartbeatAndIndex : Prop :=
  (∀ w s k, Accepts s w → k = (mergeWord s.cap.progress w.data w.enables).extractLsb' 0 16 →
    ∃ t, exec (.progressWrite w) s = .next t ∧ t.cap.progress = mergeWord s.cap.progress w.data w.enables ∧ t.hb.state = .live ∧
      t.hb.timer = some (s.timeBase + s.settings.heartbeat * second) ∧ t.hb.period = s.settings.heartbeat ∧
      ((s.ev.producer - k).toNat ≤ 256 → t.ev.consumer = k ∧ (s.hb.state = .silent →
        NextEvent s t (s.eventRec .supervisorBack none (min 65535 ((s.timeBase - s.hb.silentSince) / second)) 0))) ∧
      (256 < (s.ev.producer - k).toNat → t.ev.consumer = s.ev.consumer ∧ NextEvent s t (s.eventRec .indexInvalid none k.toNat 0))) ∧
  (∀ s due, s.hb.timer = some due → ∃ t, exec .heartbeatTimerExpiry s = .next t ∧ t.timeBase = max s.timeBase due ∧
    t.hb = ⟨.silent, none, s.hb.period, max s.timeBase due⟩ ∧ t.ev.consumer = s.ev.consumer ∧
    (s.path.reload = none → NextEvent s t (s.eventRec .supervisorSilent none s.hb.period 0))) ∧
  (∀ r s t, exec (.powerOn r) s = .next t ∨ exec (.resetLine r) s = .next t → t.ev.consumer = 0)

/-! ### Orders -/

/-- What settle's Admission rounds do. Admission's work comes before the pool's and the vettings (log 15). At the target an examination tests the
entries in order against the running total and ends in the test of preemption; above it, shedding is tested alone (R102, R106, R107, log 26). A
grant takes the entry out, enters its component and STANDING at the class row's amounts, and recomputes the effective budget (R94, R103).
Preemption sheds the first NORMAL eligible component of another bay while the URGENT head does not fit the projected total, reduction the first
NORMAL, then URGENT one, in shed order (R104 to R107). A shed returns the component, raises CLAIM_SHED and lists the bay again under its arrival
number (R108). A recomputation that ends a period above the target raises BUDGET_REACHED, before the CLAIM_SHED of the same shed (R91, R93,
log 40). The bound of settle's rounds is log 16 (DESIGN CHOICE), the level of an entry listed again follows the roster time in use, log 18 (DEDUCED),
and shed order the plan copies' roster times, log 33 (DEDUCED). -/
def Obligations.AdmissionRounds : Prop :=
  (∀ s : State, (s.agenda.admission = true ∨ s.agenda.preempt = true ∨ s.agenda.shed = true → s.settleRound = some s.admissionRound) ∧
    s.settle = settleN agendaRounds s) ∧
  (∀ n (s u : State), (s.settleRound = some u → settleN (n + 1) s = settleN n u) ∧ (s.settleRound = none → settleN (n + 1) s = s)) ∧
  (∀ s v : State, v = { s with agenda := { s.agenda with admission := false, preempt := false, shed := false } } →
    (s.effective ≤ s.settings.target → s.agenda.admission = true → s.admissionRound = v.examineAdm.preempt) ∧
    (s.effective ≤ s.settings.target → s.agenda.admission = false → s.agenda.preempt = true → s.admissionRound = v.preempt) ∧
    (s.settings.target < s.effective → (s.projected ≤ s.settings.target ∨ ∀ b, (s.claim b).heat = none) → s.admissionRound = v) ∧
    (∀ b, s.settings.target < s.effective → s.agenda.admission = true ∨ s.agenda.shed = true → s.settings.target < s.projected →
      FirstToShed s (fun c h => h.urgent = false ∨ ∀ d k, (s.claim d).heat = some k → k.urgent = true) b →
      s.admissionRound = v.shedHeat b false)) ∧
  (∀ s : State, s.examineAdm = (s.admList.foldl Exam.test ⟨s, s.granted, true⟩).st) ∧
  (∀ (x : Exam) e amount, (x.st.admEntry e.bay e.purpose).isSome = true →
    amount = (match e.purpose with | .heat => x.st.heatAmount e.bay | .lamp => x.st.lampAmount e.bay) +
      (if (x.st.claim e.bay).standing.isSome then 0 else x.st.standingAmount e.bay) →
    (e.urgent = false → x.normal = false → x.test e = x) ∧
    (e.urgent = true ∨ x.normal = true → x.total + amount ≤ x.st.settings.target →
      x.test e = ⟨x.st.grantEntry e, x.total + amount, x.normal⟩) ∧
    (e.urgent = true → x.st.settings.target < x.total + amount → x.test e = ⟨x.st, x.total, false⟩) ∧
    (e.urgent = false → x.normal = true → x.st.settings.target < x.total + amount → x.test e = x)) ∧
  (∀ (s : State) e u c, u = s.enterGrant e → s.classOf e.bay = some c →
    u.admList = s.admList.filter (fun x => !(x.bay == e.bay && x.purpose == e.purpose)) ∧ u.effective = max s.settings.target u.granted ∧
    u.claim e.bay = { standing := some ((s.claim e.bay).standing.getD c.standing),
                      heat := if e.purpose = .heat then some ⟨c.heat, e.urgent, s.timeBase,
                        if s.settings.quantum = 0 then none else some (s.timeBase + s.settings.quantum * minute), s.settings.quantum == 0⟩
                        else (s.claim e.bay).heat,
                      lamp := if e.purpose = .lamp then some c.lamp else (s.claim e.bay).lamp } ∧
    (∀ b, b ≠ e.bay → u.claim b = s.claim b)) ∧
  (∀ (s : State) e u, u = s.grantEntry e → e.purpose = .heat → (s.session e.bay).state = .waiting → (s.session e.bay).phase = .listed →
    s.plugged e.bay = true → (s.ctr e.bay).state = .open → (s.ctr e.bay).heat = false →
    (u.session e.bay).phase = .granted ∧ (u.ctr e.bay).heat = true ∧ (u.ctr e.bay).state = .closing ∧
      (u.ctr e.bay).limit = some (s.timeBase + contactorLimit)) ∧
  (∀ s : State, (∀ e ∈ s.admList, e.urgent = false) → s.preempt = s) ∧
  (∀ (s : State) head, s.admList.find? (fun e => e.urgent) = some head →
    (s.projected + s.entryAmount head.bay head.purpose ≤ s.settings.target → s.preempt = s) ∧
    ((∀ b h, (s.claim b).heat = some h → h.urgent = true ∨ h.eligible = false ∨ b = head.bay) → s.preempt = s) ∧
    (∀ b, s.settings.target < s.projected + s.entryAmount head.bay head.purpose →
      FirstToShed s (fun c h => h.urgent = false ∧ h.eligible = true ∧ c ≠ head.bay) b → s.preempt = s.shedHeat b true)) ∧
  (∀ (s : State) b h p u, (s.claim b).heat = some h → u = s.shedHeat b p → s.path.reload = none →
    (u.claim b).heat = none ∧ (u.claim b).lamp = (s.claim b).lamp ∧ (∀ b', b' ≠ b → u.claim b' = s.claim b') ∧
    (s.effective ≤ s.settings.target ∨ s.settings.target < s.granted - h.amount →
      NextEvent s u (s.eventRec .claimShed (some b) (h.amount + if p then 256 else 0) 0)) ∧
    (s.settings.target < s.effective → s.granted - h.amount ≤ s.settings.target →
      NextEvent s u (s.eventRec .budgetReached none s.settings.target 0) ∧
      (s.ev.buffer.length + 1 < bufferCapacity → u.ev.buffer[s.ev.buffer.length + 1]? =
        some { s.eventRec .claimShed (some b) (h.amount + if p then 256 else 0) 0 with stamp := s.ev.stamp + 2 })) ∧
    ((s.session b).state = .heating ∨ (s.session b).state = .waiting ∧ (s.session b).phase = .granted →
      s.accumulated b ≠ (s.session b).requiredUnits → (u.session b).state = .paused ∧ (u.session b).pauseShed = true ∧
      (u.session b).phase = .listed ∧ (u.session b).since = none ∧ (u.session b).saved = s.accumulated b ∧ (u.ctr b).heat = false ∧
      u.admEntry b .heat = some ⟨b, .heat, s.rosterNear b, (s.session b).arrival.getD s.admCounter, none⟩)) ∧
  (∀ (s : State) old u, u = s.rebudget old → u.effective = max s.settings.target s.granted ∧ u.agenda.admission = true ∧ u.claims = s.claims ∧
    (old < s.effective → s.granted ≤ s.settings.target → s.path.reload = none →
      NextEvent s u (s.eventRec .budgetReached none s.settings.target 0)) ∧
    (s.effective ≤ old ∨ s.settings.target < s.granted → u.ev = s.ev))

/-- A lamp check passing its tests asks Admission for LAMP and waits in SUPPLY with a 10 min limit; a fault read goes to the channel list with a 15
min limit (R47, R48, R98, R101, R133, R138, R154, R168). -/
def Obligations.ChecksOrdered : Prop :=
  (∀ b w s, Orders s b w .lampCheck → s.isAssigned b = true → s.occupied b = true → s.plugged b = true →
    (s.clearance b).state.needsOpen = false → (s.act b .lamp).stage = .none → (s.ctr b).state ≠ .welded → s.admEntry b .lamp = none →
    (s.claim b).lamp = none →
    ∃ d : State, exec (.lampCheck b w) s = .next d.settle ∧ (d.act b .lamp).stage = .supply ∧ (d.act b .lamp).origin = some .order ∧
      ∃ e, d.admEntry b .lamp = some e ∧ e.urgent = true ∧ e.wait = some (s.timeBase + supplyWait) ∧ e.arrival = s.admCounter) ∧
  (∀ c b w s v, (c = .faultRead b w ∧ Orders s b w .faultRead ∧ v = .read ∨ c = .faultReadErase b w ∧ Orders s b w .faultReadErase ∧ v = .readErase) →
    s.isAssigned b = true → s.occupied b = true → (s.clearance b).state.needsOpen = false → (s.act b .fault).stage = .none →
    s.chanEntry b .fault = none → s.linkOf b .fault = none →
    ∃ d : State, exec c s = .next d.settle ∧ (d.act b .fault).stage = .queued ∧ (d.act b .fault).origin = some .order ∧
      (d.act b .fault).variant = v ∧ ∃ e, d.chanEntry b .fault = some e ∧ e.since = s.timeBase ∧ e.limit = s.timeBase + channelWait ∧
      e.arrival = s.poolCounter ∧ e.variant = v)

/-- A live session ends with CANCELLED; a waiting check of either kind ends at once and a running one is closing or over; a welded contactor with open
feedback is released to OPEN with an empty claimant set (R83, R125, R148). -/
def Obligations.CancelsAndRelease : Prop :=
  (∀ b w s, Orders s b w .cancelHeat → s.isAssigned b = true →
    ∃ d : State, exec (.cancelHeat b w) s = .next d.settle ∧
      ((s.session b).state.live = true → (d.session b).state = .ended ∧ (d.session b).ending = some .cancelled ∧ (d.session b).phase = .noEntry) ∧
      ((s.session b).state.live = false → d.session b = s.session b)) ∧
  (∀ b w s, Orders s b w .cancelChecks → s.isAssigned b = true →
    ∃ d : State, exec (.cancelChecks b w) s = .next d.settle ∧ ∀ a,
      ((s.act b a).stage = .none ∨ (s.act b a).stage = .supply ∨ (s.act b a).stage = .queued → (d.act b a).stage = .none) ∧
      ((s.act b a).stage = .running → (d.act b a).stage = .closing ∨ (d.act b a).stage = .none)) ∧
  (∀ b w s, Orders s b w .releaseContactor → (s.ctr b).state = .welded → s.fedBack b = false →
    ∃ d : State, exec (.releaseContactor b w) s = .next d.settle ∧ (d.ctr b).state = .open ∧ (d.ctr b).heat = false ∧
      (d.ctr b).lamp = false ∧ (d.ctr b).pilot = false ∧ ((s.claim b).heat = none → (s.claim b).lamp = none → d.claim b = {}) ∧
      (s.path.reload = none → s.effective ≤ s.settings.target →
        NextEvent s d (s.eventRec .contactorReleased (some b) ((s.claim b).standing.getD 0) (0))))

/-! ### Clearance requests -/

/-- A request word with good parity fills its bay's held slot, byte by byte over what it held or over zero, and enters nothing else; a reset empties
every slot and the reload fills none (R20). -/
def Obligations.HeldSlot : Prop :=
  (∀ b w s, Reaches s w → ∃ p, exec (.clearanceRequestWrite b w) s = .next (State.settle { s with path := p }) ∧ p.port = .done ∧
    p.held = vset s.path.held b (some (mergeWord ((vget s.path.held b).getD 0) w.data w.enables)) ∧ p.queue = s.path.queue ∧
    p.delayed = s.path.delayed) ∧
  (∀ c s t, isReset c = true → exec c s = .next t → t.path.held = if c = .reloadReadComplete then s.path.held else Vector.replicate 16 none)

/-- A check word with good parity: with an empty slot, or a pair that fails, it is dropped with ROW_REJECTED and the slot ends empty; a passing pair
without two free entries is answered RETRY; with them it enters the queue and is handed over (R21). -/
def Obligations.CheckWordSteps : Prop :=
  ∀ c b w s, (c = .clearanceClear b w ∨ c = .clearanceCancel b w) → Reaches s w →
    let chk := mergeWord 0 w.data w.enables
    let at' := regionAddr s.path.base (0x884 + 8 * b.val)
    let pair := (vget s.path.held b).bind fun req => (decodeClearance req chk).map fun r => (req, r)
    (pair = none → ∃ t, exec c s = .next t ∧ t.path.port = .done ∧ t.path.held = vset s.path.held b none ∧ t.path.queue = s.path.queue ∧
      t.clearanceCopies = s.clearanceCopies ∧ NextEvent s t (s.eventRec .rowRejected (some b) (at'.toNat % 65536) 0)) ∧
    (∀ req r, pair = some (req, r) → queueCapacity < s.path.queue.length + 2 →
      ∃ x, exec c s = .next (State.settle { s with path := { s.path with port := .retry, begun := x } })) ∧
    (∀ req r, pair = some (req, r) → s.path.queue.length + 2 ≤ queueCapacity →
      ∃ d : State, exec c s = .next d.settle ∧ d.path.port = .done ∧ d.path.held = vset s.path.held b none ∧
        d.path.queue = s.path.queue ++ [⟨wordAddr (regionAddr s.path.base (0x880 + 8 * b.val)), req, 15, parityOf req⟩,
          ⟨wordAddr at', chk, 15, parityOf chk⟩] ∧ d.clearanceCopies = vset s.clearanceCopies b (some r) ∧
        (d.clearance b).lastSeq = some r.seq)

/-- The eleven conditions of a vetting, bit by bit of the reason set: when each fails, and when a failing one is waitable (R185; freshness by R62,
R164 and R180). -/
def Obligations.VettingConditions : Prop :=
  ∀ (s : State) (b : Bay) (q : ClrRequest),
    ((s.failing b q).getLsbD 0 = true ↔ (s.bay b).assignment ≠ .assigned) ∧
    (∀ p, (s.bay b).plan = some p → ((s.failing b q).getLsbD 1 = true ↔ (s.bay b).assignment = .assigned ∧ q.run ≠ p.run)) ∧
    ((s.failing b q).getLsbD 2 = true ↔ (s.line b).presence.taken = false) ∧
    (∀ p c, (s.bay b).plan = some p → vget s.classes p.classIx = some c → ((s.failing b q).getLsbD 3 = true ↔
      (s.bay b).assignment = .assigned ∧ ∀ y, (s.bay b).seen = some y → y.id ≠ p.coachId ∨ y.code ≠ c.code)) ∧
    ((s.failing b q).getLsbD 4 = true ↔
      ¬ Fresh s (s.lampResult b).judgeTime s.settings.lampFresh ∨ (s.lampResult b).judged = some .fail) ∧
    ((s.failing b q).getLsbD 5 = true ↔ ¬ Fresh s (s.summary b).completeTime s.settings.faultFresh ∨ HoldsBlocking s b) ∧
    ((s.failing b q).getLsbD 6 = true ↔ (s.session b).state ≠ .none ∧ (s.session b).state ≠ .complete ∧ q.waiver = false) ∧
    ((s.failing b q).getLsbD 7 = true ↔ (s.line b).plug.taken = true) ∧
    ((s.failing b q).getLsbD 8 = true ↔
      (s.ctr b).state ≠ .open ∨ (s.claim b).standing ≠ none ∨ (s.claim b).heat ≠ none ∨ (s.claim b).lamp ≠ none) ∧
    ((s.failing b q).getLsbD 9 = true ↔ s.hb.state ≠ .live) ∧ ((s.failing b q).getLsbD 10 = true ↔ s.hold.taken = true) ∧
    (∀ i, 11 ≤ i → (s.failing b q).getLsbD i = false) ∧
    ((s.waitable b).getLsbD 3 = true ↔ (s.act b .lamp).stage ≠ .none ∨ (s.act b .fault).stage ≠ .none ∨
      (s.failing b q).getLsbD 4 = true ∧ (s.waitable b).getLsbD 4 = true ∨ (s.failing b q).getLsbD 5 = true ∧ (s.waitable b).getLsbD 5 = true) ∧
    ((s.waitable b).getLsbD 4 = true ↔ ¬ Fresh s (s.lampResult b).judgeTime s.settings.lampFresh) ∧
    ((s.waitable b).getLsbD 5 = true ↔ ¬ HoldsBlocking s b) ∧
    (s.waitable b).getLsbD 7 = true ∧ ((s.waitable b).getLsbD 8 = true ↔ (s.ctr b).state ≠ .welded) ∧
    (∀ i, i ≠ 3 → i ≠ 4 → i ≠ 5 → i ≠ 7 → i ≠ 8 → (s.waitable b).getLsbD i = false)

/-- A CLEAR with a new sequence taken in NONE: met clears, what waiting cannot meet withholds, the rest prepares with the placements of R187; taken in
any other state it is refused BUSY (R184, R185, R186, R187, R190). A heat waiver ends a live session unless the request is withheld, which leaves the
session untouched (R186). The failing set and its waitable conditions are those of VettingConditions. -/
def Obligations.ClearVerdicts : Prop :=
  ∀ b w s req r q, Reaches s w → s.path.queue.length + 2 ≤ queueCapacity → vget s.path.held b = some req →
    decodeClearance req (mergeWord 0 w.data w.enables) = some r → r.action = .clear → (s.clearance b).lastSeq ≠ some r.seq → q = ⟨r.waiver, r.run, r.seq⟩ →
    ∃ d : State, exec (.clearanceClear b w) s = .next d.settle ∧
      ((s.clearance b).state ≠ .none → (d.clearance b).state = (s.clearance b).state ∧
        NextEvent s d (s.eventRec .orderRefused (some b) (1 + 32768) r.seq)) ∧
      ((s.clearance b).state = .none → s.failing b q = 0 →
        (d.clearance b).state = (if s.looped b then .departing else .cleared) ∧ (d.bay b).proceed = (!s.looped b) ∧
        (d.clearance b).request = some q ∧ (d.clearance b).clearedTime = s.clockTime ∧
        (s.looped b = false → (d.clearance b).lapse = .running (s.timeBase + s.settings.lapse * minute))) ∧
      ((s.clearance b).state = .none → s.failing b q &&& ~~~ s.waitable b ≠ 0 →
        (d.clearance b).state = .none ∧ (d.clearance b).outcome = some .withheld ∧ (d.clearance b).reasons = s.failing b q ∧
        d.session b = s.session b ∧ NextEvent s d (s.eventRec .withheld (some b) (s.failing b q).toNat r.seq)) ∧
      ((s.clearance b).state = .none → s.failing b q &&& ~~~ s.waitable b = 0 → q.waiver = true → (s.session b).state.live = true →
        (d.session b).state = .ended ∧ (d.session b).ending = some .waived ∧ (d.session b).phase = .noEntry) ∧
      ((s.clearance b).state = .none → s.failing b q ≠ 0 → s.failing b q &&& ~~~ s.waitable b = 0 →
        (d.clearance b).state = .preparing ∧ (d.clearance b).failing = s.failing b q ∧ (d.clearance b).request = some q ∧
        (d.clearance b).prep = some (s.timeBase + s.settings.prep * minute) ∧
        (d.clearance b).lampPlaced = (!s.freshLamp b && (s.act b .lamp).stage == .none && s.isAssigned b && s.occupied b && s.plugged b) ∧
        (d.clearance b).faultPlaced = (!s.freshRead b && !s.blockingFault b && (s.act b .fault).stage == .none && s.isAssigned b && s.occupied b) ∧
        ((d.clearance b).lampPlaced = true → s.admEntry b .lamp = none → (s.claim b).lamp = none →
          (d.act b .lamp).stage = .supply ∧ (d.act b .lamp).origin = some .clearance) ∧
        ((d.clearance b).faultPlaced = true → s.chanEntry b .fault = none → s.linkOf b .fault = none →
          (d.act b .fault).stage = .queued ∧ (d.act b .fault).origin = some .clearance))

/-- A CANCEL with a new sequence ends a clearance with CANCELLED and REQUESTED; in NONE it is refused NOTHING_TO_CANCEL (R184, R195). The bay's
checks of origin CLEARANCE are stopped as R148 gives by their stage, and record CANCELLED at their end; checks of other origins run on (R195). The
event's sequence byte is the ended request's (log 19); that CANCELLED comes before the results of the checks stopped is log 17 (DESIGN CHOICE). -/
def Obligations.ClearanceCancel : Prop :=
  ∀ b w s req r, Reaches s w → s.path.queue.length + 2 ≤ queueCapacity → vget s.path.held b = some req →
    decodeClearance req (mergeWord 0 w.data w.enables) = some r → r.action = .cancel → (s.clearance b).lastSeq ≠ some r.seq →
    ∃ d : State, exec (.clearanceCancel b w) s = .next d.settle ∧ (d.clearance b).state = .none ∧
      ((s.clearance b).state = .none → NextEvent s d (s.eventRec .orderRefused (some b) (9 + 32768) r.seq)) ∧
      ((s.clearance b).state ≠ .none → (d.clearance b).outcome = some .cancelled ∧ (d.clearance b).reasons = rRequested ∧
        (d.bay b).proceed = false ∧ NextEvent s d (s.eventRec .cancelled (some b) 0x2000
          (match (s.clearance b).request with | some q => q.seq | none => 0)) ∧
        ∀ a, ((s.act b a).origin = some .clearance ∧ (s.act b a).stage ≠ .none ∧ (s.act b a).stage ≠ .closing →
            ((d.act b a).stage = .none ∨ (s.act b a).stage = .running ∧ (d.act b a).stage = .closing ∧ (d.act b a).stop = .orderly ∧
              (d.act b a).ending = some .cancelled) ∧
            ((d.act b a).stage = .none → (s.act b a).previous = false →
              (a = .lamp → (d.lampResult b).outcome = some .cancelled) ∧ (a = .fault → (d.summary b).outcome = some .cancelled))) ∧
          ((s.act b a).origin ≠ some .clearance ∨ (s.act b a).stage = .none ∨ (s.act b a).stage = .closing → d.act b a = s.act b a))

/-! ### Bay lines and contactor -/

/-- A level change at a pin starts, leaves running or stops the line's 100 ms settle timer; the taken value stays, and no other line changes. Through
the reload no timer runs (R68). -/
def Obligations.LineLevelChange : Prop :=
  ∀ ln lv s, ∃ t, exec (.lineLevelChange ln lv) s = .next t ∧ (lineOf t ln).level = lv ∧ (lineOf t ln).taken = (lineOf s ln).taken ∧
    (lineOf t ln).settle = (if lv = (lineOf s ln).taken ∨ s.path.reload.isSome = true then none
      else if (lineOf s ln).level = lv then (lineOf s ln).settle else some (s.timeBase + lineSettle)) ∧
    ∀ l, l ≠ ln → lineOf t l = lineOf s l

/-- Presence OCCUPIED is recorded and may start a BOOKED session. Presence EMPTY makes an ASSIGNED bay DEPARTED: a live session ends with DEPARTED,
waiting checks end, and no clearance stays; at any other bay the assignment stays (R71, R72, R73, R115). A DEPARTING clearance ends DEPARTED with the
run number and no breach; in any other state UNAUTHORISED_DEPARTURE is raised with that state, and then a PREPARING clearance is WITHHELD and a
CLEARED or SUSPENDED one REVOKED, with NOT_PRESENT (R194). The premise is the law of R190 that every step keeps. The instant is log 2; that the
clearance's events are the command's last is log 17. -/
def Obligations.PresenceChanges : Prop :=
  (∀ b s due, Settling (s.line b).presence true due →
    ∃ d : State, exec (.presenceOccupied b) s = .next d.settle ∧ (d.line b).presence = ⟨true, true, none⟩ ∧ d.timeBase = max s.timeBase due ∧
      (d.bay b).assignment = (s.bay b).assignment ∧ ((s.session b).state ≠ .booked → d.session b = s.session b) ∧
      ((s.session b).state = .booked → (s.session b).required ≠ 0 → s.startReached b = true → s.isAssigned b = true → s.plugged b = true →
        (d.session b).state = .waiting ∧ (d.session b).late = s.afterStart b)) ∧
  (∀ b s due, Settling (s.line b).presence false due → ContactorLaw s →
    ∃ d : State, exec (.presenceEmpty b) s = .next d.settle ∧ (d.line b).presence = ⟨false, false, none⟩ ∧ d.timeBase = max s.timeBase due ∧
      (∀ a, (s.act b a).stage = .supply ∨ (s.act b a).stage = .queued → (d.act b a).stage = .none) ∧
      ((s.bay b).assignment ≠ .assigned → (d.bay b).assignment = (s.bay b).assignment ∧ d.session b = s.session b ∧
        d.clearance b = s.clearance b ∧ d.att.latches.getLsbD 2 = s.att.latches.getLsbD 2) ∧
      ((s.bay b).assignment = .assigned → (d.bay b).assignment = .departed ∧ (d.bay b).plan = (s.bay b).plan ∧
        (d.bay b).seen = (s.bay b).seen ∧ (d.clearance b).state = .none ∧
        ((s.session b).state.live = true → (d.session b).state = .ended ∧ (d.session b).ending = some .departed) ∧
        (∀ q, (s.clearance b).request = some q → s.path.reload = none →
          ((s.clearance b).state = .departing → (d.clearance b).outcome = some .departed ∧ (d.clearance b).reasons = 0 ∧
            d.att.latches.getLsbD 2 = s.att.latches.getLsbD 2 ∧
            ∀ p, (s.bay b).plan = some p → RaisedLast s d 0 .departed (some b) p.run 0) ∧
          ((s.clearance b).state = .preparing → (d.clearance b).outcome = some .withheld ∧ (d.clearance b).reasons = rNotPresent ∧
            RaisedLast s d 1 .unauthorisedDeparture (some b) 1 0 ∧ RaisedLast s d 0 .withheld (some b) 4 q.seq) ∧
          ((s.clearance b).state = .cleared ∨ (s.clearance b).state = .suspended →
            (d.clearance b).outcome = some .revoked ∧ (d.clearance b).reasons = rNotPresent ∧ (d.bay b).proceed = false ∧
            RaisedLast s d 1 .unauthorisedDeparture (some b) (if (s.clearance b).state = .cleared then 2 else 3) 0 ∧
            RaisedLast s d 0 .revoked (some b) 4 q.seq)) ∧
        ((s.clearance b).state = .none → s.path.reload = none →
          (d.clearance b).outcome = (s.clearance b).outcome ∧ RaisedLast s d 0 .unauthorisedDeparture (some b) 0 0) ∧
        ((s.clearance b).state ≠ .departing → s.path.reload = none → d.att.latches.getLsbD 2 = true)))

/-- The plug OUT empties the claimant set of a contactor that is not OPEN, with PLUG_PULLED, opens a driven one, pauses a heating session and ends a
waiting lamp check; the plug IN revokes a CLEARED or SUSPENDED clearance and lifts the pause reason (R84, R85, R122, R123, R191). The instant is
log 2. That PLUG_PULLED comes before the events of the session and the lamp check, and that the plug IN reaches the session before the clearance, is
log 17 (DESIGN CHOICE). A revocation's reasons are stated for a session that is not BOOKED, a pause for a HEATING one. -/
def Obligations.PlugChanges : Prop :=
  (∀ b s due, Settling (s.line b).plug false due → s.path.reload = none →
    ∃ d : State, exec (.plugOut b) s = .next d.settle ∧ (d.line b).plug = ⟨false, false, none⟩ ∧ d.timeBase = max s.timeBase due ∧
      ((s.ctr b).state ≠ .open → NextEvent s d (s.eventRec .plugPulled (some b) (s.ctr b).state.code 0) ∧
        (d.ctr b).heat = false ∧ (d.ctr b).lamp = false ∧ (d.ctr b).pilot = false) ∧
      ((s.ctr b).state = .closing ∨ (s.ctr b).state = .closed →
        (s.fedBack b = true → (d.ctr b).state = .opening ∧ (d.ctr b).limit = some (max s.timeBase due + contactorLimit)) ∧
        (s.fedBack b = false → (d.ctr b).state = .open ∧ (d.ctr b).limit = none)) ∧
      ((s.ctr b).state = .opening ∨ (s.ctr b).state = .failedClose ∨ (s.ctr b).state = .welded → (d.ctr b).state = (s.ctr b).state) ∧
      ((s.session b).state = .heating → (s.advanceTo due).accumulated b ≠ (s.session b).requiredUnits →
        (d.session b).state = .paused ∧ (d.session b).pausePlug = true ∧ (d.session b).phase = .noEntry ∧
        ((s.session b).since ≠ none → (d.session b).saved = (s.advanceTo due).accumulated b)) ∧
      ((s.act b .lamp).stage = .supply ∨ (s.act b .lamp).stage = .queued → (d.act b .lamp).stage = .none) ∧
      (d.act b .fault).stage = (s.act b .fault).stage) ∧
  (∀ b s due, Settling (s.line b).plug true due →
    ∃ d : State, exec (.plugIn b) s = .next d.settle ∧ (d.line b).plug = ⟨true, true, none⟩ ∧ d.timeBase = max s.timeBase due ∧
      ((s.clearance b).state = .cleared ∨ (s.clearance b).state = .suspended → (d.clearance b).state = .none ∧
        (d.clearance b).outcome = some .revoked ∧ (d.bay b).proceed = false ∧ ((s.session b).state ≠ .booked → (d.clearance b).reasons = rPlug)) ∧
      ((s.session b).state = .paused → (s.session b).pausePlug = true → (d.session b).pausePlug = false ∧
        (d.session b).state = if (s.session b).pauseShed then .paused else .waiting))

/-- The exit loop OCCUPIED takes a CLEARED clearance to DEPARTING and revokes a SUSPENDED one; FREE starts the reverse timer of a DEPARTING bay that
is OCCUPIED, and OCCUPIED stops it (R74, R191, R192, R193).
The instant, from which the reverse timer runs, is log 2. -/
def Obligations.ExitLoopChanges : Prop :=
  (∀ b s due, Settling (s.line b).loop true due →
    ∃ d : State, exec (.exitLoopOccupied b) s = .next d.settle ∧ (d.line b).loop = ⟨true, true, none⟩ ∧ d.timeBase = max s.timeBase due ∧
      ((s.clearance b).state = .cleared → (s.ctr b).state = .open → (d.clearance b).state = .departing ∧ (d.clearance b).lapse = .stopped ∧
        (d.bay b).proceed = false) ∧
      ((s.clearance b).state = .suspended → (d.clearance b).state = .none ∧ (d.clearance b).outcome = some .revoked ∧
        (d.clearance b).reasons = rHold) ∧
      ((s.clearance b).state = .departing → d.clearance b = { s.clearance b with reverse := none }) ∧
      ((s.clearance b).state = .none ∨ (s.clearance b).state = .preparing → d.clearance b = s.clearance b)) ∧
  (∀ b s due, Settling (s.line b).loop false due →
    ∃ d : State, exec (.exitLoopFree b) s = .next d.settle ∧ (d.line b).loop = ⟨false, false, none⟩ ∧ d.timeBase = max s.timeBase due ∧
      d.clearance b = if (s.clearance b).state = .departing ∧ s.occupied b = true
        then { s.clearance b with reverse := some (max s.timeBase due + reverseTime) } else s.clearance b)

/-- The yard hold raises HOLD_ON and suspends every CLEARED clearance with the lapse time left; its release raises HOLD_OFF and vets every SUSPENDED
clearance: with no condition failing it is CLEARED again, or DEPARTING on an OCCUPIED loop, the lapse timer running on, else WITHHELD with the failing
set. The heat waiver acts as at taking. Clearances in NONE and DEPARTING stay (R75, R186, R191, R192, R193). The failing set is VettingConditions'.
The instant and the lapse time left are log 2, the event before the clearances' own is log 17. -/
def Obligations.YardHoldChanges : Prop :=
  (∀ s due, Settling s.hold true due → s.path.reload = none → ContactorLaw s →
    ∃ d : State, exec .yardHoldActive s = .next d.settle ∧ d.hold = ⟨true, true, none⟩ ∧ d.timeBase = max s.timeBase due ∧
      NextEvent s d (s.eventRec .holdOn none 0 0) ∧ ∀ b,
      ((s.clearance b).state = .cleared → (d.clearance b).state = .suspended ∧ (d.bay b).proceed = false ∧
        ∀ x, (s.clearance b).lapse = .running x → (d.clearance b).lapse = .paused (x - max s.timeBase due)) ∧
      ((s.clearance b).state = .none ∨ (s.clearance b).state = .suspended ∨ (s.clearance b).state = .departing →
        d.clearance b = s.clearance b)) ∧
  (∀ s due, Settling s.hold false due → s.path.reload = none →
    ∃ d : State, exec .yardHoldInactive s = .next d.settle ∧ d.hold = ⟨false, false, none⟩ ∧ d.timeBase = max s.timeBase due ∧
      NextEvent s d (s.eventRec .holdOff none 0 0) ∧ ∀ b,
      (∀ q u, (s.clearance b).state = .suspended → (s.clearance b).request = some q →
        u = { s with timeBase := max s.timeBase due, hold := ⟨false, false, none⟩ } →
        (u.failing b q = 0 → (d.clearance b).state = (if s.looped b then .departing else .cleared) ∧ (d.bay b).proceed = (!s.looped b) ∧
          (d.clearance b).request = some q ∧ (d.clearance b).clearedTime = s.clockTime ∧
          (∀ l, (s.clearance b).lapse = .paused l →
            (d.clearance b).lapse = if s.looped b then .stopped else .running (max s.timeBase due + l)) ∧
          (q.waiver = true → (s.session b).state.live = true → (d.session b).state = .ended ∧ (d.session b).ending = some .waived)) ∧
        (u.failing b q ≠ 0 → (d.clearance b).state = .none ∧ (d.clearance b).outcome = some .withheld ∧ (d.clearance b).reasons = u.failing b q ∧
          (d.bay b).proceed = false ∧ d.session b = s.session b)) ∧
      ((s.clearance b).state = .none ∨ (s.clearance b).state = .cleared ∨ (s.clearance b).state = .departing →
        d.clearance b = s.clearance b))

/-- Feedback closed ends CLOSING in CLOSED and starts the heating of a granted session; on an OPEN or FAILED_CLOSE contactor it is a weld, with
STANDING held. Feedback open ends OPENING, and a CLOSED contactor goes to FAILED_CLOSE; else only FEEDBACK_UNEXPECTED (R79 to R82). A session that
enters HEATING raises HEAT_STARTED with its accumulated minutes, and the resume mark from its second entry on (R118). The instant is log 2. That
FEEDBACK_UNEXPECTED comes before the events of other blocks is log 45 (DESIGN CHOICE). -/
def Obligations.FeedbackChanges : Prop :=
  (∀ b s due, Settling (s.line b).feedback true due → s.path.reload = none →
    ∃ d : State, exec (.feedbackClosed b) s = .next d.settle ∧ (d.line b).feedback = ⟨true, true, none⟩ ∧ d.timeBase = max s.timeBase due ∧
      ((s.ctr b).state = .closing → (d.ctr b).state = .closed ∧ (d.ctr b).limit = none ∧
        ((s.ctr b).heat = true → (s.session b).state = .waiting → (s.session b).phase = .granted →
          (d.session b).state = .heating ∧ (d.session b).since = some (max s.timeBase due) ∧ (d.session b).frozen = true ∧ (d.ctr b).pilot = true ∧
          d.att.latches.getLsbD 3 = true ∧
          NextEvent s d (s.eventRec .heatStarted (some b) ((s.session b).saved / minute + if (s.session b).frozen then 256 else 0) 0))) ∧
      ((s.ctr b).state ≠ .closing → NextEvent s d (s.eventRec .feedbackUnexpected (some b) ((s.ctr b).state.code + 8) 0)) ∧
      ((s.ctr b).state = .open ∨ (s.ctr b).state = .failedClose → (d.ctr b).state = .welded ∧ (d.claim b).standing.isSome = true) ∧
      ((s.ctr b).state = .closed ∨ (s.ctr b).state = .opening ∨ (s.ctr b).state = .welded → d.ctr b = s.ctr b)) ∧
  (∀ b s due, Settling (s.line b).feedback false due → s.path.reload = none →
    ∃ d : State, exec (.feedbackOpen b) s = .next d.settle ∧ (d.line b).feedback = ⟨false, false, none⟩ ∧ d.timeBase = max s.timeBase due ∧
      ((s.ctr b).state = .opening → (s.ctr b).claimed = false → (d.ctr b).state = .open ∧ (d.ctr b).limit = none) ∧
      ((s.ctr b).state = .opening → (s.ctr b).claimed = true → (d.ctr b).state = .closing ∧
        (d.ctr b).limit = some (max s.timeBase due + contactorLimit)) ∧
      ((s.ctr b).state ≠ .opening → NextEvent s d (s.eventRec .feedbackUnexpected (some b) (s.ctr b).state.code 0)) ∧
      ((s.ctr b).state = .closed → (d.ctr b).state = .failedClose ∧ (d.ctr b).heat = false ∧ (d.ctr b).lamp = false ∧ (d.ctr b).pilot = false ∧
        ((s.ctr b).heat = true → (s.session b).state = .heating → (d.session b).state = .failed ∧ (d.session b).ending = some .noClose)) ∧
      ((s.ctr b).state = .open ∨ (s.ctr b).state = .closing ∨ (s.ctr b).state = .failedClose ∨ (s.ctr b).state = .welded → d.ctr b = s.ctr b))

/-- A contactor that does not close in 3 s is FAILED_CLOSE, one that does not open is WELDED with STANDING held; the claimant set empties. A session
that claimed it, HEATING or WAITING with its supply GRANTED, is FAILED with NO_CLOSE or WELDED; a lamp check that claimed it loses its component and
its supply, ends NO_SUPPLY if it waited for its channels, and if it ran goes to its closing step NO_SUPPLY, at once or when its exchange has ended
(R76, R79, R80, R124, R170, R177). With no claimant the event is the next one, before those of a STANDING returned or an entry refused (DESIGN CHOICE,
log 45). The instant is log 2. -/
def Obligations.ContactorLimits : Prop :=
  let lampLost := fun (s d : State) (b : Bay) =>
    (s.ctr b).lamp = true → ((s.act b .lamp).stage = .queued ∨ (s.act b .lamp).stage = .running ∨ (s.act b .lamp).stage = .closing) →
      (d.claim b).lamp = none ∧ (d.lampWorkOf b).supplyOn = false ∧
      ((s.act b .lamp).stage = .queued → (d.act b .lamp).stage = .none ∧
        ((s.act b .lamp).previous = false → (d.lampResult b).outcome = some .noSupply)) ∧
      ((s.act b .lamp).stage = .running → (∃ x, s.exchOf b .lamp = some x) → (d.lampWorkOf b).lost = true ∧ (d.lampWorkOf b).window = none) ∧
      ((s.act b .lamp).stage = .running → s.exchOf b .lamp = none → (s.lampWorkOf b).lit = none → (s.act b .lamp).previous = false →
        (d.lampResult b).outcome = some .noSupply)
  (∀ b s due, (s.ctr b).state = .closing → (s.ctr b).limit = some due → s.path.reload = none →
    ∃ d : State, exec (.closeLimitExpiry b) s = .next d.settle ∧ d.timeBase = max s.timeBase due ∧ (d.ctr b).state = .failedClose ∧
      (d.ctr b).limit = none ∧ (d.ctr b).heat = false ∧ (d.ctr b).lamp = false ∧ (d.ctr b).pilot = false ∧
      ((s.ctr b).heat = true → ((s.session b).state = .heating ∨ (s.session b).state = .waiting ∧ (s.session b).phase = .granted) →
        (d.session b).state = .failed ∧ (d.session b).ending = some .noClose ∧ (d.claim b).heat = none) ∧
      lampLost s d b ∧ ((s.ctr b).claimed = false → NextEvent s d (s.eventRec .contactorNoClose (some b) 0 0))) ∧
  (∀ b s due, (s.ctr b).state = .opening → (s.ctr b).limit = some due → s.path.reload = none →
    ∃ d : State, exec (.openLimitExpiry b) s = .next d.settle ∧ d.timeBase = max s.timeBase due ∧ (d.ctr b).state = .welded ∧
      (d.ctr b).limit = none ∧ (d.ctr b).heat = false ∧ (d.ctr b).lamp = false ∧ (d.ctr b).pilot = false ∧
      (d.claim b).standing.isSome = true ∧
      ((s.ctr b).heat = true → ((s.session b).state = .heating ∨ (s.session b).state = .waiting ∧ (s.session b).phase = .granted) →
        (d.session b).state = .failed ∧ (d.session b).ending = some .welded ∧ (d.claim b).heat = none) ∧
      lampLost s d b ∧ ((s.ctr b).claimed = false → NextEvent s d (s.eventRec .contactorWeld (some b) (if (s.ctr b).startUp then 6 else 3) 0)))

/-! ### Supply, heat and channel times -/

/-- A LAMP entry that has waited 10 min leaves the list with SUPPLY_TIMEOUT, and its check ends NO_SUPPLY; an entry that has waited 15 min leaves the
channel list and its activity ends NO_CHANNEL; an URGENT LAMP entry that has waited 2 min as the first gets the reservation (R101, R137, R138,
R168). The instants are log 2. That SUPPLY_TIMEOUT comes before the result of the check is log 45. -/
def Obligations.WaitLimits : Prop :=
  (∀ b s e due, s.admEntry b .lamp = some e → e.wait = some due → s.path.reload = none →
    ∃ d : State, exec (.supplyTimeout b) s = .next d.settle ∧ d.timeBase = max s.timeBase due ∧ d.admEntry b .lamp = none ∧
      NextEvent s d (s.eventRec .supplyTimeout (some b) 1 0) ∧
      ((s.act b .lamp).stage = .supply → (d.act b .lamp).stage = .none ∧
        ((s.act b .lamp).previous = false → (d.lampResult b).outcome = some .noSupply))) ∧
  (∀ b a s e, s.chanEntry b a = some e →
    ∃ d : State, exec (.channelWaitLimitExpiry b a) s = .next d.settle ∧ d.timeBase = max s.timeBase e.limit ∧ d.chanEntry b a = none ∧
      (d.act b a).stage = .none ∧ ((s.act b a).previous = false →
        (a = .lamp → (d.lampResult b).outcome = some .noChannel) ∧ (a = .fault → (d.summary b).outcome = some .noChannel))) ∧
  (∀ s b due, s.resTimer = some (b, due) → exec .reservationTimerExpiry s =
    .next (State.settle { s with timeBase := max s.timeBase due, reservation := some b, resTimer := none }))

/-- A held HEAT component becomes eligible at its hold timer's expiry, and nothing else of it changes; a count that reaches its required time
completes the session, its accumulated time the required one, and raises HEAT_COMPLETE with the required minutes and the late flag; each whole minute
on the way is shown (R104, R112, R119). The instants are log 2, the shown minutes log 24. That HEAT_COMPLETE comes after a BUDGET_REACHED of the component
returned is log 45 (DESIGN CHOICE). -/
def Obligations.HeatTimes : Prop :=
  (∀ b s h due, (s.claim b).heat = some h → h.hold = some due →
    ∃ d : State, exec (.holdTimerExpiry b) s = .next d.settle ∧ d.timeBase = max s.timeBase due ∧
      d.claim b = { s.claim b with heat := some { h with hold := none, eligible := true } }) ∧
  (∀ b s t0, (s.session b).since = some t0 →
    ∃ d : State, exec (.heatTimeReached b) s = .next d.settle ∧
      d.timeBase = max s.timeBase (t0 + ((s.session b).requiredUnits - (s.session b).saved)) ∧ (d.session b).state = .complete ∧
      (d.session b).phase = .noEntry ∧ (d.session b).since = none ∧ (d.session b).saved = (s.session b).requiredUnits ∧
      (d.session b).shown = (s.session b).required ∧
      ((s.session b).phase = .granted → (d.claim b).heat = none ∧ (d.ctr b).heat = false ∧ ((s.ctr b).heat = true → (d.ctr b).pilot = false)) ∧
      (s.path.reload = none → d.att.latches.getLsbD 3 = true ∧
        RaisedLast s d 0 .heatComplete (some b) ((s.session b).required + if (s.session b).late then 256 else 0) 0)) ∧
  (∀ b s t0, (s.session b).since = some t0 → (s.session b).shown < (s.session b).required →
    ∃ d : State, exec (.accumulatedWholeMinuteChange b) s = .next d.settle ∧
      d.timeBase = max s.timeBase (t0 + (((s.session b).shown + 1) * minute - (s.session b).saved)) ∧
      d.session b = { s.session b with shown := (s.session b).shown + 1 })

/-! ### The link -/

/-- When the last byte of an attempt has gone the 250 ms reply timer runs; its expiry, or the end of a BUSY wait, sends the next attempt with the same
request, and the third expiry fails the exchange, which ends a fault read LINK_FAILED (R142, R143, R149); for a lamp check and a single attempt the
third expiry is not stated here. The instants are log 2. -/
def Obligations.AttemptTimes : Prop :=
  (∀ ch s b a x, (s.link ch).holder = some (b, a) → (s.link ch).exch = some x → x.state = .sending →
    ((s.act b a).stop ≠ .immediate → ∃ d : State, exec (.requestSent ch) s = .next d.settle ∧
      d.link ch = { s.link ch with exch := some { x with state := .waiting (s.timeBase + replyTime) [] } }) ∧
    ((s.act b a).stop = .immediate → ∃ d : State, exec (.requestSent ch) s = .next d.settle ∧ (d.act b a).stage = .none)) ∧
  (∀ ch s x due got, (s.link ch).exch = some x → x.state = .waiting due got → x.single = false → x.attempt < 3 →
    ∃ d : State, exec (.replyTimerExpiry ch) s = .next d.settle ∧ d.timeBase = max s.timeBase due ∧
      d.link ch = { s.link ch with exch := some { x with attempt := x.attempt + 1, state := .sending } }) ∧
  (∀ ch s b x due got, (s.link ch).holder = some (b, .fault) → (s.link ch).exch = some x → x.state = .waiting due got →
    (s.act b .fault).stage = .running → (s.act b .fault).stop = .none → x.single = false → 3 ≤ x.attempt → x.request ≠ .sleep →
    (∀ g on, x.request ≠ .lamp g on) →
    ∃ d : State, exec (.replyTimerExpiry ch) s = .next d.settle ∧ (d.act b .fault).stage = .none ∧
      ((s.act b .fault).previous = false → (d.summary b).outcome = some .linkFailed)) ∧
  (∀ ch s x due, (s.link ch).exch = some x → x.state = .busy due →
    ∃ d : State, exec (.busyWaitExpiry ch) s = .next d.settle ∧ d.timeBase = max s.timeBase due ∧
      d.link ch = { s.link ch with exch := some { x with attempt := x.attempt + 1, state := .sending } })

/-- The Link Engine hunts while a reply is awaited: bytes other than 0xC3 before a frame, a framing error, a length above 24 and a complete frame that
is no well-formed reply are discarded and hunting goes on with the next byte; the bytes of a frame not yet complete are kept, and nothing else
changes. While no reply is awaited all input is ignored. A whole well-formed frame is the reply; a BUSY one with attempts left starts the 100 ms
wait (R139, R141, R142, R143). The row's name does not bind the frame (log 23). -/
def Obligations.FramesDiscarded : Prop :=
  (∀ x : LineByte, LineByte.levels x = [false, x.data.getLsbD 0, x.data.getLsbD 1, x.data.getLsbD 2, x.data.getLsbD 3, x.data.getLsbD 4, x.data.getLsbD 5,
    x.data.getLsbD 6, x.data.getLsbD 7, x.stop]) ∧
  (∀ r seq got (x : LineByte) rest, (x.stop = false ∨ got = [] ∧ x.data ≠ 0xC3 ∨ got.length = 3 ∧ 24 < x.data.toNat) →
    hunt r seq got (x :: rest) = hunt r seq [] rest) ∧
  (∀ r seq f rest n, f.length = n + 6 → f[0]? = some 0xC3 → f[3]? = some (BitVec.ofNat 8 n) → n ≤ 24 →
    hunt r seq [] (onLine f ++ rest) = match parseReply r seq f with | some y => .reply y | none => hunt r seq [] rest) ∧
  (∀ r seq f n, f.length < n + 6 → n ≤ 24 → f[0]? = some 0xC3 → (3 < f.length → f[3]? = some (BitVec.ofNat 8 n)) →
    hunt r seq [] (onLine f) = .listening f) ∧
  (∀ c ch input f s, (c = .malformedFrame ch input ∨ input = onLine f ∧ (c = .wakeReply ch f ∨ c = .identReply ch f ∨ c = .faultPageReply ch f ∨
      c = .eraseStoredReply ch f ∨ c = .lampReply ch f ∨ c = .sleepReply ch f)) →
    ((∀ x due got, (s.link ch).exch = some x → x.state ≠ .waiting due got) → exec c s = .next s.settle) ∧
    (∀ x due got more, (s.link ch).exch = some x → x.state = .waiting due got → hunt x.request (s.link ch).seq got input = .listening more →
      exec c s = .next (s.setLink ch { s.link ch with exch := some { x with state := .waiting due more } }).settle) ∧
    (∀ x due got, (s.link ch).exch = some x → x.state = .waiting due got → hunt x.request (s.link ch).seq got input = .reply .busy → x.single = false →
      x.attempt < 3 → ∃ d : State, exec c s = .next d.settle ∧
        d.link ch = { s.link ch with exch := some { x with state := .busy (s.timeBase + busyTime) } }) ∧
    (∀ g x due got y, (s.link ch).exch = some x → x.state = .waiting due got → hunt x.request (s.link ch).seq got input = .reply y →
      hunt x.request (s.link ch).seq [] (onLine g) = .reply y → exec c s = exec (.malformedFrame ch (onLine g))
        (s.setLink ch { s.link ch with exch := some { x with state := .waiting due [] } })))

/-- The wake procedure: OK stops the wake timer and sends IDENT with the next sequence; STARTING pauses to one second after the first attempt began,
after which WAKE is sent anew; a wake timer that expires in a pause ends a fault read NO_WAKE (R142, R144). A lamp check's NO_WAKE is not stated here.
The instants are log 2; the instant noted as the end of the exchange is log 41. -/
def Obligations.WakeExchanges : Prop :=
  (∀ ch f s b a x, Awaits s ch b a x → x.request = .wake → parseReply .wake (s.link ch).seq f = some .ok →
    ∃ d : State, exec (.wakeReply ch f) s = .next d.settle ∧ d.link ch = { s.link ch with
      wakeTimer := none, seq := ((s.link ch).seq + 1) % 16, exch := some ⟨.ident, 1, .sending, false, s.timeBase⟩, endedAt := some s.timeBase }) ∧
  (∀ ch f s b a x due, Awaits s ch b a x → x.request = .wake → parseReply .wake (s.link ch).seq f = some .starting →
    (s.link ch).wakeTimer = some due →
    ∃ d : State, exec (.wakeReply ch f) s = .next d.settle ∧ d.link ch =
      if x.began + second ≤ s.timeBase then { s.link ch with
        seq := ((s.link ch).seq + 1) % 16, exch := some ⟨.wake, 1, .sending, false, s.timeBase⟩, endedAt := some s.timeBase }
      else { s.link ch with exch := none, pause := some (x.began + second), endedAt := some s.timeBase }) ∧
  (∀ ch s due, (s.link ch).pause = some due →
    ∃ d : State, exec (.wakePauseEnd ch) s = .next d.settle ∧ d.timeBase = max s.timeBase due ∧ d.link ch = { s.link ch with
      pause := none, seq := ((s.link ch).seq + 1) % 16, exch := some ⟨.wake, 1, .sending, false, max s.timeBase due⟩ }) ∧
  (∀ ch s due, (s.link ch).wakeTimer = some due →
    ∃ d : State, exec (.wakeTimerExpiry ch) s = .next d.settle ∧ d.timeBase = max s.timeBase due ∧
      ((s.link ch).pause = none → d.link ch = { s.link ch with wakeTimer := none }) ∧
      (∀ b, (s.link ch).pause.isSome = true → (s.link ch).holder = some (b, .fault) → (d.act b .fault).stage = .none ∧
        ((s.act b .fault).previous = false → (d.summary b).outcome = some .noWake)))

/-- An IDENT reply sets the coach-seen fields; a fault read whose coach and class agree starts its pages at page 0 with the seen and drop marks clear,
a lamp check its 1 s baseline; one that disagrees ends IDENTITY (R89, R145, R155, R172). A page asked for becomes the read's page number, and a
record lost in the merges of a page sets drop mark and overflow mark: a record whose code is in the table, or that finds an empty slot, loses
nothing; with a full table a record of lower rank than every slot is dropped; a replaced slot is a loss if it was seen (R158). A completion takes the
overflow mark from the drop mark (R162). An erase accepted or refused completes the read, keeping the seen slots, and after OK only the ACTIVE ones
(R160). The end of SLEEP, by its reply or its third expiry, releases link and lamp channel, and the activity is over (R143, R146, R147). -/
def Obligations.ReadAndSleepReplies : Prop :=
  (∀ ch f s b a x id code total, Awaits s ch b a x → x.request = .ident → (s.act b a).previous = false →
    parseReply .ident (s.link ch).seq f = some (.okIdent id code total) →
    ∃ d : State, exec (.identReply ch f) s = .next d.settle ∧ (d.bay b).seen = some ⟨id, code⟩ ∧
      (s.identityMatches b id code = true → a = .fault → (d.summary b).total = some total ∧ d.table b = (s.table b).unmark ∧
        vget d.reads b = { page := 0, drop := false } ∧
        (d.link ch).exch = some ⟨.faultPage 0, 1, .sending, false, s.timeBase⟩ ∧ (d.link ch).seq = ((s.link ch).seq + 1) % 16) ∧
      (s.identityMatches b id code = true → a = .lamp → (d.lampWorkOf b).step = some .baseline ∧
        (d.lampWorkOf b).window = some (.baseline, s.timeBase + baselineTime) ∧ (d.link ch).exch = none) ∧
      (s.identityMatches b id code = false → a = .fault → (d.summary b).outcome = some .identity) ∧
      (s.identityMatches b id code = false → a = .lamp → (d.lampResult b).outcome = some .identity)) ∧
  (∀ ch f s b x n more raws rs lost, Awaits s ch b .fault x → x.request = .faultPage n →
    parseReply (.faultPage n) (s.link ch).seq f = some (.okPage more raws) → judgePage raws = some rs →
    lost = (rs.foldl (fun (p : FaultTable × Bool) r => ((p.1.merge r s.clockTime).1, p.2 || (p.1.merge r s.clockTime).2)) (s.table b, false)).2 →
    ∃ d : State, exec (.faultPageReply ch f) s = .next d.settle ∧
      (more = true → n ≠ 15 → vget d.reads b = { page := n + 1, drop := (vget s.reads b).drop || lost } ∧
        (d.summary b).overflow = ((s.summary b).overflow || lost)) ∧
      ((more = false ∨ n = 15) → (s.act b .fault).variant = .read →
        (d.summary b).overflow = ((vget s.reads b).drop || lost) ∧ (d.summary b).eraseRefused = false)) ∧
  (∀ (t : FaultTable) (r : FaultRecord) time,
    ((∃ k x, vget t.slots k = some x ∧ x.code = r.code) → (t.merge r time).2 = false ∧ (t.merge r time).1.pointer = t.pointer) ∧
    ((∃ k, vget t.slots k = none) → (t.merge r time).2 = false) ∧
    ((∀ k, ∃ x, vget t.slots k = some x ∧ x.code ≠ r.code ∧ x.rank < r.rank) → t.merge r time = (t, true)) ∧
    ((∀ k, ∃ x, vget t.slots k = some x ∧ x.code ≠ r.code) → ∀ k x, vget t.slots k = some x → vget (t.merge r time).1.slots k ≠ some x →
      (t.merge r time).2 = x.seen ∧ vget (t.merge r time).1.slots k = some ⟨r.code, r.severity, r.active, r.count, time, true⟩)) ∧
  (∀ ch f s b x r, Awaits s ch b .fault x → x.request = .eraseStored → (s.act b .fault).previous = false →
    parseReply .eraseStored (s.link ch).seq f = some r → (r = .ok ∨ r = .refused) →
    ∃ d : State, exec (.eraseStoredReply ch f) s = .next d.settle ∧ (d.summary b).outcome = some .complete ∧
      (d.summary b).completeTime = s.clockTime ∧ (d.summary b).eraseRefused = (r == .refused) ∧
      (d.summary b).overflow = (vget s.reads b).drop ∧
      d.table b = (s.table b).keep (fun y => y.seen && (y.active || r == .refused))) ∧
  (∀ c ch f s b a x r due got, s.linkOf b a = some ch → (s.link ch).exch = some x → x.state = .waiting due got → x.request = .sleep →
    (s.act b a).stage = .closing → (s.act b a).stop = .none →
    (c = .sleepReply ch f ∧ got = [] ∧ parseReply .sleep (s.link ch).seq f = some r ∧ (r = .ok ∨ r = .refused) ∨
     c = .replyTimerExpiry ch ∧ (x.single = true ∨ 3 ≤ x.attempt)) →
    ∃ d : State, exec c s = .next d.settle ∧ d.act b a = {} ∧ d.link ch = { seq := (s.link ch).seq } ∧
      (∀ k, k ≠ ch → d.link k = s.link k) ∧ d.agenda.pool = true ∧
      (a = .lamp → d.lampWorkOf b = {} ∧ ∀ k, s.lampChOf b = some k → d.lampCh k = {}))

/-- A page whose records are all acceptable is merged in order, and the next page is asked for while the coach has more; an unacceptable record ends
the read BAD_RECORD with nothing merged, and the last page of a plain read completes it (R156, R157, R158, R159). -/
def Obligations.FaultPages : Prop :=
  ∀ ch f s b x n more raws, Awaits s ch b .fault x → x.request = .faultPage n → (s.act b .fault).previous = false →
    parseReply (.faultPage n) (s.link ch).seq f = some (.okPage more raws) →
    ∃ d : State, exec (.faultPageReply ch f) s = .next d.settle ∧
      (judgePage raws = none → d.table b = s.table b ∧ (d.summary b).outcome = some .badRecord) ∧
      (∀ rs, judgePage raws = some rs → more = true → n ≠ 15 →
        d.table b = rs.foldl (fun t r => (t.merge r s.clockTime).1) (s.table b) ∧
        (d.link ch).exch = some ⟨.faultPage (n + 1), 1, .sending, false, s.timeBase⟩ ∧ (d.link ch).seq = ((s.link ch).seq + 1) % 16) ∧
      (∀ rs, judgePage raws = some rs → (more = false ∨ n = 15) → (s.act b .fault).variant = .read →
        d.table b = (rs.foldl (fun t r => (t.merge r s.clockTime).1) (s.table b)).keep (fun y => y.seen) ∧
        (d.summary b).outcome = some .complete ∧ (d.summary b).completeTime = s.clockTime) ∧
      (∀ rs, judgePage raws = some rs → (more = false ∨ n = 15) → (s.act b .fault).variant = .readErase →
        (d.link ch).exch = some ⟨.eraseStored, 1, .sending, false, s.timeBase⟩)

/-- What settle's pool rounds and vettings do, after Admission's (log 15). An examination tests the entries in order: one whose bay holds a link
channel is passed over; a fault read takes the free link channel of the lowest number unless the reservation stands, a lamp check a link and a lamp
channel together (R130, R135). A grant takes the entry out, ends its reservation, marks the channels HELD at the class row's rate, and puts the
activity in RUNNING: a fault read, or a lamp check whose supply is on, opens the link, a lamp check without supply stands in POWER (R136, R137,
R144, R170). A vetting of a PREPARING clearance is withheld, cleared or keeps waiting with its failing set and the placements of R187; a heat waiver
ends a live session first where the verdict is not withheld (R186, R187, R188, R190). The failing set and its waitable conditions are those of
VettingConditions (R185). -/
def Obligations.PoolAndVettingRounds : Prop :=
  (∀ s : State, s.agenda.admission = false → s.agenda.preempt = false → s.agenda.shed = false →
    (s.agenda.pool = true → s.settleRound = some s.poolRound) ∧
    (∀ b, s.agenda.pool = false → vget s.agenda.vet b = true → (∀ b', b' < b → vget s.agenda.vet b' = false) → s.settleRound = some (s.vetRound b)) ∧
    (s.agenda.pool = false → (∀ b, vget s.agenda.vet b = false) → s.settleRound = none)) ∧
  (∀ s : State, s.poolRound = s.poolList.foldl State.testEntry { s with agenda := { s.agenda with pool := false } }) ∧
  (∀ (s : State) e, s.chanEntry e.bay e.act ≠ none →
    ((∃ k, (s.link k).select = some e.bay) → s.testEntry e = s) ∧
    ((∀ k, (s.link k).holder ≠ none) → s.testEntry e = s) ∧
    (e.act = .fault → s.reservation ≠ none → s.testEntry e = s) ∧
    (e.act = .lamp → (∀ k, (s.lampCh k).holder ≠ none) → s.testEntry e = s) ∧
    (∀ ch, (∀ k, (s.link k).select ≠ some e.bay) → (s.link ch).holder = none → (∀ k, k < ch → (s.link k).holder ≠ none) →
      (e.act = .fault → s.reservation = none → s.testEntry e = s.grantChannels e.bay .fault ch) ∧
      (e.act = .lamp → (∃ k, (s.lampCh k).holder = none) → s.testEntry e = s.grantChannels e.bay .lamp ch))) ∧
  (∀ (s : State) b a ch c u, s.chanEntry b a ≠ none → s.linkOf b a = none → s.classOf b = some c → u = s.grantChannels b a ch →
    u.chanEntry b a = none ∧ (a = .lamp → u.reservation ≠ some b) ∧
    (u.link ch).holder = some (b, a) ∧ (u.link ch).rate = c.rate ∧ (∀ k, k ≠ ch → u.link k = s.link k) ∧
    (u.act b a).stage = .running ∧ (u.act b a).stop = .none ∧ (u.act b a).ending = none ∧ (u.act b a).rate = c.rate ∧ (u.act b a).wake = c.wake ∧
    ((a = .fault ∨ (s.lampWorkOf b).supplyOn = true) → (u.act b a).linkUsed = true ∧ (u.link ch).seq = ((s.link ch).seq + 1) % 16 ∧
      (u.link ch).exch = some ⟨.wake, 1, .sending, false, s.timeBase⟩ ∧ (u.link ch).wakeTimer = some (s.timeBase + c.wake * second)) ∧
    (a = .lamp → (s.lampWorkOf b).supplyOn = false → (u.act b a).linkUsed = false ∧ (u.link ch).exch = none ∧ (u.lampWorkOf b).step = some .power) ∧
    (a = .lamp → (s.lampWorkOf b).supplyOn = true → (u.lampWorkOf b).step = some .link) ∧
    (a = .lamp → (u.lampWorkOf b).layout = some ⟨c.present, c.critical, c.flashing, c.expected⟩ ∧
      ∀ k, (s.lampCh k).holder = none → (∀ j, j < k → (s.lampCh j).holder ≠ none) →
        u.lampCh k = { holder := some b, litNow := vget s.heads b })) ∧
  (∀ (s : State) b v u, v = { s with agenda := { s.agenda with vet := vset s.agenda.vet b false } } → u = s.vetRound b →
    ((s.clearance b).state ≠ .preparing ∨ (s.clearance b).request = none → u = v) ∧
    (∀ q, (s.clearance b).state = .preparing → (s.clearance b).request = some q →
      (s.failing b q &&& ~~~ s.waitable b ≠ 0 → (u.clearance b).state = .none ∧ (u.clearance b).outcome = some .withheld ∧
        (u.clearance b).reasons = s.failing b q ∧ u.session b = s.session b ∧
        (s.path.reload = none → NextEvent s u (s.eventRec .withheld (some b) (s.failing b q).toNat q.seq))) ∧
      (s.failing b q &&& ~~~ s.waitable b = 0 → q.waiver = true → (s.session b).state.live = true →
        (u.session b).state = .ended ∧ (u.session b).ending = some .waived) ∧
      (s.failing b q = 0 → (u.clearance b).state = (if s.looped b then .departing else .cleared) ∧ (u.clearance b).prep = none ∧
        (u.clearance b).clearedTime = s.clockTime ∧ (u.bay b).proceed = (!s.looped b) ∧ (u.clearance b).request = some q) ∧
      (s.failing b q ≠ 0 → s.failing b q &&& ~~~ s.waitable b = 0 → (u.clearance b).state = .preparing ∧ (u.clearance b).failing = s.failing b q ∧
        (u.clearance b).lampPlaced = ((s.clearance b).lampPlaced || (!s.freshLamp b && (s.act b .lamp).stage == .none && s.isAssigned b && s.occupied b &&
          s.plugged b)) ∧
        (u.clearance b).faultPlaced = ((s.clearance b).faultPlaced || (!s.freshRead b && !s.blockingFault b && (s.act b .fault).stage == .none &&
          s.isAssigned b && s.occupied b)) ∧
        ((s.clearance b).faultPlaced = false → (u.clearance b).faultPlaced = true → s.chanEntry b .fault = none → s.linkOf b .fault = none →
          (u.act b .fault).stage = .queued ∧ (u.act b .fault).origin = some .clearance) ∧
        ((s.clearance b).lampPlaced = false → (u.clearance b).lampPlaced = true → s.barred b .lamp = false → s.admEntry b .lamp = none →
          (s.claim b).lamp = none → (u.act b .lamp).stage = .supply ∧ (u.act b .lamp).origin = some .clearance))))

/-! ### Lamp checking -/

/-- The answer to LAMP on opens the 2 s on-window with the seen-lit set empty, the answer to LAMP off the off-window with no group counted lit;
REFUSED counts as OK (R173, R174). The baseline ends AMBIENT on a lit sensor, else GROUP_ON for the first present group; the on-window records
DARK and CROSS and asks for LAMP off; the off-window records STUCK, and the next present group follows or the check is judged: FAIL on a finding of a
critical group, else PASS_WITH_NOTES on any, else PASS (R172 to R176, R179). A class with no present group goes from the baseline to its judgement
(R172). The instants are log 2. -/
def Obligations.LampProcedure : Prop :=
  (∀ ch f s b x g on r, Awaits s ch b .lamp x → x.request = .lamp g on → parseReply (.lamp g on) (s.link ch).seq f = some r → (r = .ok ∨ r = .refused) →
    ∃ d : State, exec (.lampReply ch f) s = .next d.settle ∧ (d.link ch).exch = none ∧
      (on = true → d.lampWorkOf b = { s.lampWorkOf b with seenLit := 0, window := some (.on, s.timeBase + windowTime) }) ∧
      (on = false → d.lampWorkOf b = { s.lampWorkOf b with lit := none, window := some (.off, s.timeBase + windowTime) })) ∧
  (∀ b s due, (s.lampWorkOf b).window = some (.baseline, due) →
    ∃ d : State, exec (.baselineExpiry b) s = .next d.settle ∧ d.timeBase = max s.timeBase due ∧
      (s.litNow b ≠ 0 → (s.act b .lamp).previous = false → (d.lampResult b).outcome = some .ambient) ∧
      (∀ l g, s.litNow b = 0 → (s.lampWorkOf b).layout = some l → l.nextGroup 0 = some g →
        (d.lampWorkOf b).step = some .groupOn ∧ (d.lampWorkOf b).group = some g ∧ (d.lampWorkOf b).lit = some g ∧
        (∀ ch, s.linkOf b .lamp = some ch → (d.link ch).exch = some ⟨.lamp g true, 1, .sending, false, max s.timeBase due⟩)) ∧
      (∀ l, s.litNow b = 0 → (s.lampWorkOf b).layout = some l → l.present = 0 → ∃ j, JudgedFrom l (s.lampWorkOf b).findings j ∧
        (d.lampResult b).judged = some j ∧ (d.lampResult b).judgeTime = s.clockTime ∧
        ((s.act b .lamp).previous = false → (d.lampResult b).outcome = some j.endCode))) ∧
  (∀ (l : Layout) n, (l.nextGroup n = none ↔ ∀ k : Group, n ≤ k.val → l.present.getLsbD k.val = false) ∧
    ∀ g, l.nextGroup n = some g ↔ n ≤ g.val ∧ l.present.getLsbD g.val = true ∧ ∀ k : Group, n ≤ k.val → k < g → l.present.getLsbD k.val = false) ∧
  (∀ b s due g l, (s.lampWorkOf b).window = some (.on, due) → (s.lampWorkOf b).group = some g → (s.lampWorkOf b).layout = some l →
    ∃ d : State, exec (.onWindowExpiry b) s = .next d.settle ∧ d.timeBase = max s.timeBase due ∧
      (d.lampWorkOf b).step = some .groupOff ∧ (d.lampWorkOf b).window = none ∧ (d.lampWorkOf b).lit = (s.lampWorkOf b).lit ∧
      vget (d.lampWorkOf b).findings g = some
        { dark := ((if l.flashing.getLsbD g.val then vget l.expected g &&& ~~~ (s.lampWorkOf b).seenLit else vget l.expected g &&& ~~~ s.litNow b : Set8) != 0),
          cross := (s.lampWorkOf b).seenLit &&& ~~~ vget l.expected g != 0 } ∧
      (∀ ch, s.linkOf b .lamp = some ch → (d.link ch).exch = some ⟨.lamp g false, 1, .sending, false, max s.timeBase due⟩)) ∧
  (∀ b s due g l w, (s.lampWorkOf b).window = some (.off, due) → (s.lampWorkOf b).group = some g → (s.lampWorkOf b).layout = some l →
    w = { s.lampWorkOf b with
          window := none, judged := (s.lampWorkOf b).judged + 1,
          findings := vset (s.lampWorkOf b).findings g (some { (s.lampWorkOf b).findingOf g with stuck := s.litNow b != 0 }) } →
    ∃ d : State, exec (.offWindowExpiry b) s = .next d.settle ∧ d.timeBase = max s.timeBase due ∧
      (∀ g', l.nextGroup (g.val + 1) = some g' → d.lampWorkOf b = { w with step := some .groupOn, group := some g', lit := some g' }) ∧
      (l.nextGroup (g.val + 1) = none → (d.lampResult b).judgeTime = s.clockTime ∧
        (∃ v, (d.lampResult b).findings = some v ∧ ∀ k : Group, vget v k =
          if l.present.getLsbD k.val then some ((vget w.findings k).getD {}) else none) ∧
        ∃ j, JudgedFrom l w.findings j ∧ (d.lampResult b).judged = some j ∧
          ((s.act b .lamp).previous = false → (d.lampResult b).outcome = some j.endCode)))

/-- A sensor's level change runs its 10 ms settle timer on the channel switched to the head; a change taken enters the lit-now set, and a lit one the
seen-lit set during an on-window (R171). The head is the row's operand (log 30);
the instant is log 2. -/
def Obligations.SensorChanges : Prop :=
  (∀ b k lit s, ∃ t, exec (.sensorLevelChange b k lit) s = .next t ∧
    (∀ j : Sensor, (vget t.heads b).getLsbD j.val = if j = k then lit else (vget s.heads b).getLsbD j.val) ∧
    (∀ b', b' ≠ b → vget t.heads b' = vget s.heads b')) ∧
  (∀ b k lit s lc, s.lampChOf b = some lc →
    ∃ d : State, exec (.sensorLevelChange b k lit) s = .next d.settle ∧ (d.lampCh lc).litNow = (s.lampCh lc).litNow ∧
      vget (d.lampCh lc).settle k = (if (s.lampCh lc).litNow.getLsbD k.val = lit then none
        else if (vget s.heads b).getLsbD k.val = lit then vget (s.lampCh lc).settle k else some (s.timeBase + sensorSettle))) ∧
  (∀ lc k s b due, (s.lampCh lc).holder = some b → vget (s.lampCh lc).settle k = some due →
    ∃ d : State, exec (.sensorChangeTaken lc k) s = .next d.settle ∧ d.timeBase = max s.timeBase due ∧ vget (d.lampCh lc).settle k = none ∧
      (∀ j : Sensor, (d.lampCh lc).litNow.getLsbD j.val =
        if j = k then (vget s.heads b).getLsbD k.val else (s.lampCh lc).litNow.getLsbD j.val) ∧
      (∀ j : Sensor, (d.lampWorkOf b).seenLit.getLsbD j.val = ((s.lampWorkOf b).seenLit.getLsbD j.val ||
        (j == k && (vget s.heads b).getLsbD k.val && (s.lampWorkOf b).window.any fun v => v.1 == .on))))

/-! ### Clearance timers and supervision -/

/-- The preparation limit withholds with the failing set, VettingConditions', and CHECK_PENDING where a check has not ended; the lapse timer ends LAPSED
without reasons, the reverse timer REVOKED with REVERSED; the signal shows STOP (R183, R189, R191, R193). The instants are log 2. -/
def Obligations.ClearanceTimers : Prop :=
  (∀ b s q due, (s.clearance b).prep = some due → (s.clearance b).request = some q → s.path.reload = none →
    ∃ d : State, exec (.preparationTimerExpiry b) s = .next d.settle ∧ d.timeBase = max s.timeBase due ∧ (d.bay b).proceed = false ∧
      d.clearance b = {
        lastSeq := (s.clearance b).lastSeq, clearedTime := (s.clearance b).clearedTime, outcome := some .withheld,
        reasons := s.failing b q ||| (if s.checkUnderWay b then rCheckPending else 0), outcomeTime := s.clockTime } ∧
      NextEvent s d (s.eventRec .withheld (some b) (s.failing b q ||| (if s.checkUnderWay b then rCheckPending else 0)).toNat q.seq)) ∧
  (∀ b s due, (s.clearance b).lapse = .running due →
    ∃ d : State, exec (.lapseTimerExpiry b) s = .next d.settle ∧ d.timeBase = max s.timeBase due ∧ (d.bay b).proceed = false ∧
      d.clearance b = {
        lastSeq := (s.clearance b).lastSeq, clearedTime := (s.clearance b).clearedTime, outcome := some .lapsed,
        reasons := 0, outcomeTime := s.clockTime }) ∧
  (∀ b s due, (s.clearance b).reverse = some due →
    ∃ d : State, exec (.reverseTimerExpiry b) s = .next d.settle ∧ d.timeBase = max s.timeBase due ∧ (d.bay b).proceed = false ∧
      d.clearance b = {
        lastSeq := (s.clearance b).lastSeq, clearedTime := (s.clearance b).clearedTime, outcome := some .revoked,
        reasons := rReversed, outcomeTime := s.clockTime })

/-! ### Events and the Fault Table -/

/-- A raised event takes the next stamp, joins the buffer or is counted missed, and sets its cause's latch and newest stamp; none is raised while the
reload runs (R17, R201, R203, R207). -/
def Obligations.RaisedEvents : Prop :=
  ∀ (s : State) k b detail seq, (s.path.reload.isSome = true → State.raise s k b detail seq = s) ∧
    (s.path.reload = none → ∃ u a, State.raise s k b detail seq = { s with ev := u, att := a } ∧ u.stamp = s.ev.stamp + 1 ∧
      u.producer = s.ev.producer ∧ u.consumer = s.ev.consumer ∧
      (s.ev.buffer.length < 16 → u.missed = s.ev.missed ∧
        u.buffer = s.ev.buffer ++ [⟨s.ev.stamp + 1, k, b, BitVec.ofNat 16 detail, s.clockTime, BitVec.ofNat 8 seq⟩]) ∧
      (16 ≤ s.ev.buffer.length → u.missed = s.ev.missed + 1 ∧ u.buffer = s.ev.buffer) ∧
      ∀ c : Fin 10, a.latches.getLsbD c.val = (s.att.latches.getLsbD c.val || c == k.cause) ∧
        vget a.newest c = if c = k.cause then some (s.ev.stamp + 1) else vget s.att.newest c)

/-- The slot that a merge takes (R158): the one that holds the record's code, else the first empty one from the pointer on, else the first
lowest-ranked one from the pointer on that the record outranks or, equal in rank, that this read has not seen, with the pointer after a slot filled or
replaced; else the record is dropped. A replaced slot that was seen, and a drop, are a loss. The ranks are R152's. So an ACTIVE BLOCKING record is not
dropped while the table holds a slot of lower rank or a free one, and a record of lower rank replaces no ACTIVE BLOCKING slot (R152, R158). -/
def Obligations.MergeKeepsActiveBlocking : Prop :=
  (∀ x : Slot, x.rank = match x.active, x.severity with
    | true, .blocking => 1 | true, .advise => 2 | true, .info => 3 | false, .blocking => 4 | false, .advise => 5 | false, .info => 6) ∧
  (∀ (t : FaultTable) (r : FaultRecord) (time : Option TimeOfDay) (n : Slot) (C : Fin 8 → Prop), n = ⟨r.code, r.severity, r.active, r.count, time, true⟩ →
    (∀ k, C k ↔ ∃ x, vget t.slots k = some x ∧ (∀ j y, vget t.slots j = some y → y.rank ≤ x.rank) ∧
      (n.rank < x.rank ∨ n.rank = x.rank ∧ x.seen = false)) →
    (∀ k x, TableDistinct t → vget t.slots k = some x → x.code = r.code → t.merge r time = ({ t with slots := vset t.slots k (some n) }, false)) ∧
    (∀ i : Fin 8, (∀ k x, vget t.slots k = some x → x.code ≠ r.code) → vget t.slots (t.pointer + i) = none →
      (∀ j, j < i → vget t.slots (t.pointer + j) ≠ none) →
      t.merge r time = ({ slots := vset t.slots (t.pointer + i) (some n), pointer := t.pointer + i + 1 }, false)) ∧
    ((∀ k, ∃ x, vget t.slots k = some x ∧ x.code ≠ r.code) →
      (∀ (i : Fin 8) x, C (t.pointer + i) → (∀ j, j < i → ¬ C (t.pointer + j)) → vget t.slots (t.pointer + i) = some x →
        t.merge r time = ({ slots := vset t.slots (t.pointer + i) (some n), pointer := t.pointer + i + 1 }, x.seen)) ∧
      ((∀ k, ¬ C k) → t.merge r time = (t, true)))) ∧
  ∀ (t : FaultTable) (r : FaultRecord) (time : Option TimeOfDay),
    (r.active = true → r.severity = .blocking → (∃ k, ∀ x, vget t.slots k = some x → 1 < x.rank) →
      ∃ k x, vget (t.merge r time).1.slots k = some x ∧ x.code = r.code ∧ x.active = true ∧ x.severity = .blocking) ∧
    (∀ k x, vget t.slots k = some x → x.active = true → x.severity = .blocking → x.code ≠ r.code →
      (r.active = false ∨ r.severity ≠ .blocking) → vget (t.merge r time).1.slots k = some x)
end

