-- ==== Sys2Proof/Laws/Fields.lean ====
section
/-! SUPPORT. The fields of a captured word as arithmetic: a field is a quotient modulo a power of two, and a test for reserved bits says which
quotients are 0 (R213). -/

namespace Sys2Proof.Machine

theorem bits_eq (w : Word) (lo len : Nat) : bits w lo len = w.toNat / 2 ^ lo % 2 ^ len := by
  unfold bits
  rw [Nat.shiftRight_eq_div_pow]

theorem bits_lt (w : Word) (lo len : Nat) : bits w lo len < 2 ^ len := Nat.mod_lt _ (Nat.two_pow_pos _)

theorem bitAt_eq (w : Word) (i : Nat) : bitAt w i = w.getLsbD i := rfl

theorem byteOf_toNat (w : Word) (i : Nat) : (byteOf w i).toNat = w.toNat / 2 ^ (8 * i) % 256 := by
  unfold byteOf
  rw [BitVec.toNat_ofNat, Nat.shiftRight_eq_div_pow]

/-- A mask of two parts is met when each part of the number meets its own. -/
theorem and_parts (x a m k : Nat) (ha : a < 2 ^ k) : (x &&& (a + 2 ^ k * m) = x) ↔ (x % 2 ^ k &&& a = x % 2 ^ k) ∧ (x / 2 ^ k &&& m = x / 2 ^ k) := by
  have hm : (a + 2 ^ k * m) % 2 ^ k = a := by rw [Nat.add_mul_mod_self_left, Nat.mod_eq_of_lt ha]
  have hd : (a + 2 ^ k * m) / 2 ^ k = m := by rw [Nat.add_mul_div_left _ _ (Nat.two_pow_pos k), Nat.div_eq_of_lt ha, Nat.zero_add]
  constructor
  · intro h
    constructor
    · have := congrArg (· % 2 ^ k) h
      simpa [Nat.and_mod_two_pow, hm] using this
    · have := congrArg (· / 2 ^ k) h
      simpa [Nat.and_div_two_pow, hd] using this
  · rintro ⟨h1, h2⟩
    rw [← Nat.div_add_mod (x &&& (a + 2 ^ k * m)) (2 ^ k), Nat.and_mod_two_pow, Nat.and_div_two_pow, hm, hd, h1, h2, Nat.div_add_mod]

/-- A mask of the low bits is met by the numbers below its power of two. -/
theorem and_low (x k : Nat) : (x &&& (2 ^ k - 1) = x) ↔ x < 2 ^ k := by
  rw [Nat.and_two_pow_sub_one_eq_mod]
  exact ⟨fun h => h ▸ Nat.mod_lt _ (Nat.two_pow_pos k), Nat.mod_eq_of_lt⟩

/-! ### The masks of the captured records (section 12.2) -/

theorem onlyBits_iff (w : Word) (mask : Nat) : onlyBits w mask = true ↔ w.toNat &&& mask = w.toNat := by
  unfold onlyBits
  rw [beq_iff_eq]

/-- Settings word 0: target budget and temperature band. -/
theorem onlyBits_target (w : Word) : onlyBits w 0x00030FFF = true ↔ w.toNat / 4096 % 16 = 0 ∧ w.toNat / 65536 < 4 := by
  rw [onlyBits_iff, show (0x00030FFF : Nat) = (2 ^ 12 - 1) + 2 ^ 16 * (2 ^ 2 - 1) from rfl, and_parts _ _ _ 16 (by decide), and_low, and_low]
  omega

/-- Settings word 2: lapse time, preparation limit, hold quantum, heartbeat period. -/
theorem onlyBits_times (w : Word) : onlyBits w 0x3F3F1F1F = true ↔
    w.toNat / 32 % 8 = 0 ∧ w.toNat / 8192 % 8 = 0 ∧ w.toNat / 4194304 % 4 = 0 ∧ w.toNat / 1073741824 = 0 := by
  rw [onlyBits_iff, show (0x3F3F1F1F : Nat) = (2 ^ 5 - 1) + 2 ^ 8 * ((2 ^ 5 - 1) + 2 ^ 8 * ((2 ^ 6 - 1) + 2 ^ 8 * (2 ^ 6 - 1))) from rfl,
    and_parts _ _ _ 8 (by decide), and_parts _ _ _ 8 (by decide), and_parts _ _ _ 8 (by decide), and_low, and_low, and_low, and_low]
  omega

/-- Settings word 3: fairness count, discard time, retry limit. -/
theorem onlyBits_path (w : Word) : onlyBits w 0x00FF1F1F = true ↔
    w.toNat / 32 % 8 = 0 ∧ w.toNat / 8192 % 8 = 0 ∧ w.toNat / 16777216 = 0 := by
  rw [onlyBits_iff, show (0x00FF1F1F : Nat) = (2 ^ 5 - 1) + 2 ^ 8 * ((2 ^ 5 - 1) + 2 ^ 8 * (2 ^ 8 - 1)) from rfl,
    and_parts _ _ _ 8 (by decide), and_parts _ _ _ 8 (by decide), and_low, and_low, and_low]
  omega

/-- Settings word 4: two cause sets. -/
theorem onlyBits_causes (w : Word) : onlyBits w 0x03FF03FF = true ↔ w.toNat / 1024 % 64 = 0 ∧ w.toNat / 67108864 = 0 := by
  rw [onlyBits_iff, show (0x03FF03FF : Nat) = (2 ^ 10 - 1) + 2 ^ 16 * (2 ^ 10 - 1) from rfl, and_parts _ _ _ 16 (by decide), and_low, and_low]
  omega

/-- Class word 2: link rate code, wake time, present and critical groups. -/
theorem onlyBits_link (w : Word) : onlyBits w 0xFFFF3F07 = true ↔ w.toNat / 8 % 32 = 0 ∧ w.toNat / 16384 % 4 = 0 := by
  have hw := w.isLt
  rw [onlyBits_iff, show (0xFFFF3F07 : Nat) = (2 ^ 3 - 1) + 2 ^ 8 * ((2 ^ 6 - 1) + 2 ^ 8 * (2 ^ 16 - 1)) from rfl,
    and_parts _ _ _ 8 (by decide), and_parts _ _ _ 8 (by decide), and_low, and_low, and_low]
  omega

/-- Plan word 0: bay enabled, auto-checks enabled, class index. -/
theorem onlyBits_plan (w : Word) : onlyBits w 0x1F03 = true ↔ w.toNat / 4 % 64 = 0 ∧ w.toNat / 8192 = 0 := by
  rw [onlyBits_iff, show (0x1F03 : Nat) = (2 ^ 2 - 1) + 2 ^ 8 * (2 ^ 5 - 1) from rfl, and_parts _ _ _ 8 (by decide), and_low, and_low]
  omega

/-- A day-minute time: present, minute of day, day (section 12.1). -/
theorem onlyBits_dayMinute (w : Word) : onlyBits w 0x87FFFFFF = true ↔ w.toNat / 134217728 % 16 = 0 := by
  have hw := w.isLt
  rw [onlyBits_iff, show (0x87FFFFFF : Nat) = (2 ^ 27 - 1) + 2 ^ 31 * (2 ^ 1 - 1) from rfl, and_parts _ _ _ 31 (by decide), and_low, and_low]
  omega

/-- Clearance request word: sequence, action, heat waiver, run number. -/
theorem onlyBits_request (w : Word) : onlyBits w 0x0FFF07FF = true ↔ w.toNat / 2048 % 32 = 0 ∧ w.toNat / 268435456 = 0 := by
  rw [onlyBits_iff, show (0x0FFF07FF : Nat) = (2 ^ 11 - 1) + 2 ^ 16 * (2 ^ 12 - 1) from rfl, and_parts _ _ _ 16 (by decide), and_low, and_low]
  omega

/-- A word whose low `k` bits alone carry a field: class word 3, the clock-set words, the cause set of an acknowledge record. -/
theorem onlyBits_low (w : Word) (k : Nat) : onlyBits w (2 ^ k - 1) = true ↔ w.toNat < 2 ^ k := by rw [onlyBits_iff, and_low]

/-! ### Tag and sum (R34) -/

theorem foldl_halves (ws : List Word) (n : Nat) : ws.foldl (fun a w => a + w.toNat % 65536 + w.toNat / 65536) n =
    n + (ws.map fun w => w.toNat % 65536 + w.toNat / 65536).sum := by
  induction ws generalizing n with
  | nil => rfl
  | cons w r ih => rw [List.foldl_cons, ih, List.map_cons, List.sum_cons]; omega

theorem tagAndSum_iff (tag : Nat) (ws : List Word) : tagAndSum tag ws = true ↔
    (ws.getLastD 0).toNat / 65536 = tag ∧ (ws.map fun w => w.toNat % 65536 + w.toNat / 65536).sum % 65536 = 0 := by
  unfold tagAndSum halvesSum
  rw [foldl_halves, Nat.zero_add, Bool.and_eq_true, beq_iff_eq, beq_iff_eq]

end Sys2Proof.Machine
end

