-- ==== Sys2Proof/Laws/State.lean ====
section
/-! SUPPORT. One lemma per record read and per update: what each setter of Ops.lean changes and what it leaves, so that no later proof
unfolds a record update. -/

namespace Sys2Proof.Machine

variable {s : State} {b b' : Bay}

@[simp] theorem vget_vset {α : Type} {n : Nat} (v : Vector α n) (i j : Fin n) (x : α) :
    vget (vset v i x) j = if i = j then x else vget v j := by
  simp only [vget, vset, Vector.getElem_set, Fin.ext_iff]

theorem vget_vset_self {α : Type} {n : Nat} (v : Vector α n) (i : Fin n) (x : α) : vget (vset v i x) i = x := by simp

@[simp] theorem vget_replicate {α : Type} {n : Nat} (i : Fin n) (x : α) : vget (Vector.replicate n x) i = x := by simp [vget]

@[simp] theorem vget_map {α β : Type} {n : Nat} (v : Vector α n) (f : α → β) (i : Fin n) : vget (v.map f) i = f (vget v i) := by
  simp [vget]

/-! ### Marks and flags change nothing but the dirty set and the agenda -/

@[simp] theorem markPos_pending (p : Fin 32) : (s.markPos p).pending = s.pending := rfl
@[simp] theorem markRow_pending (c : Bool) : (s.markRow b c).pending = s.pending := by unfold State.markRow; split <;> rfl
@[simp] theorem markBlock_pending (c : Bool) : (s.markBlock b c).pending = s.pending := by unfold State.markBlock; split <;> rfl
@[simp] theorem markHolder_pending (h : Option Bay) (c : Bool) : (s.markHolder h c).pending = s.pending := by unfold State.markHolder; split <;> simp
@[simp] theorem markPos_timeBase (p : Fin 32) : (s.markPos p).timeBase = s.timeBase := rfl
@[simp] theorem markRow_timeBase (c : Bool) : (s.markRow b c).timeBase = s.timeBase := by unfold State.markRow; split <;> rfl
@[simp] theorem markBlock_timeBase (c : Bool) : (s.markBlock b c).timeBase = s.timeBase := by unfold State.markBlock; split <;> rfl
@[simp] theorem markHolder_timeBase (h : Option Bay) (c : Bool) : (s.markHolder h c).timeBase = s.timeBase := by unfold State.markHolder; split <;> simp
@[simp] theorem markPos_clock (p : Fin 32) : (s.markPos p).clock = s.clock := rfl
@[simp] theorem markRow_clock (c : Bool) : (s.markRow b c).clock = s.clock := by unfold State.markRow; split <;> rfl
@[simp] theorem markBlock_clock (c : Bool) : (s.markBlock b c).clock = s.clock := by unfold State.markBlock; split <;> rfl
@[simp] theorem markHolder_clock (h : Option Bay) (c : Bool) : (s.markHolder h c).clock = s.clock := by unfold State.markHolder; split <;> simp
@[simp] theorem markPos_mem (p : Fin 32) : (s.markPos p).mem = s.mem := rfl
@[simp] theorem markRow_mem (c : Bool) : (s.markRow b c).mem = s.mem := by unfold State.markRow; split <;> rfl
@[simp] theorem markBlock_mem (c : Bool) : (s.markBlock b c).mem = s.mem := by unfold State.markBlock; split <;> rfl
@[simp] theorem markHolder_mem (h : Option Bay) (c : Bool) : (s.markHolder h c).mem = s.mem := by unfold State.markHolder; split <;> simp
@[simp] theorem markPos_path (p : Fin 32) : (s.markPos p).path = s.path := rfl
@[simp] theorem markRow_path (c : Bool) : (s.markRow b c).path = s.path := by unfold State.markRow; split <;> rfl
@[simp] theorem markBlock_path (c : Bool) : (s.markBlock b c).path = s.path := by unfold State.markBlock; split <;> rfl
@[simp] theorem markHolder_path (h : Option Bay) (c : Bool) : (s.markHolder h c).path = s.path := by unfold State.markHolder; split <;> simp
@[simp] theorem markPos_cap (p : Fin 32) : (s.markPos p).cap = s.cap := rfl
@[simp] theorem markRow_cap (c : Bool) : (s.markRow b c).cap = s.cap := by unfold State.markRow; split <;> rfl
@[simp] theorem markBlock_cap (c : Bool) : (s.markBlock b c).cap = s.cap := by unfold State.markBlock; split <;> rfl
@[simp] theorem markHolder_cap (h : Option Bay) (c : Bool) : (s.markHolder h c).cap = s.cap := by unfold State.markHolder; split <;> simp
@[simp] theorem markPos_settings (p : Fin 32) : (s.markPos p).settings = s.settings := rfl
@[simp] theorem markRow_settings (c : Bool) : (s.markRow b c).settings = s.settings := by unfold State.markRow; split <;> rfl
@[simp] theorem markBlock_settings (c : Bool) : (s.markBlock b c).settings = s.settings := by unfold State.markBlock; split <;> rfl
@[simp] theorem markHolder_settings (h : Option Bay) (c : Bool) : (s.markHolder h c).settings = s.settings := by unfold State.markHolder; split <;> simp
@[simp] theorem markPos_clockSetCopy (p : Fin 32) : (s.markPos p).clockSetCopy = s.clockSetCopy := rfl
@[simp] theorem markRow_clockSetCopy (c : Bool) : (s.markRow b c).clockSetCopy = s.clockSetCopy := by unfold State.markRow; split <;> rfl
@[simp] theorem markBlock_clockSetCopy (c : Bool) : (s.markBlock b c).clockSetCopy = s.clockSetCopy := by unfold State.markBlock; split <;> rfl
@[simp] theorem markHolder_clockSetCopy (h : Option Bay) (c : Bool) : (s.markHolder h c).clockSetCopy = s.clockSetCopy := by unfold State.markHolder; split <;> simp
@[simp] theorem markPos_ackCopy (p : Fin 32) : (s.markPos p).ackCopy = s.ackCopy := rfl
@[simp] theorem markRow_ackCopy (c : Bool) : (s.markRow b c).ackCopy = s.ackCopy := by unfold State.markRow; split <;> rfl
@[simp] theorem markBlock_ackCopy (c : Bool) : (s.markBlock b c).ackCopy = s.ackCopy := by unfold State.markBlock; split <;> rfl
@[simp] theorem markHolder_ackCopy (h : Option Bay) (c : Bool) : (s.markHolder h c).ackCopy = s.ackCopy := by unfold State.markHolder; split <;> simp
@[simp] theorem markPos_classes (p : Fin 32) : (s.markPos p).classes = s.classes := rfl
@[simp] theorem markRow_classes (c : Bool) : (s.markRow b c).classes = s.classes := by unfold State.markRow; split <;> rfl
@[simp] theorem markBlock_classes (c : Bool) : (s.markBlock b c).classes = s.classes := by unfold State.markBlock; split <;> rfl
@[simp] theorem markHolder_classes (h : Option Bay) (c : Bool) : (s.markHolder h c).classes = s.classes := by unfold State.markHolder; split <;> simp
@[simp] theorem markPos_plans (p : Fin 32) : (s.markPos p).plans = s.plans := rfl
@[simp] theorem markRow_plans (c : Bool) : (s.markRow b c).plans = s.plans := by unfold State.markRow; split <;> rfl
@[simp] theorem markBlock_plans (c : Bool) : (s.markBlock b c).plans = s.plans := by unfold State.markBlock; split <;> rfl
@[simp] theorem markHolder_plans (h : Option Bay) (c : Bool) : (s.markHolder h c).plans = s.plans := by unfold State.markHolder; split <;> simp
@[simp] theorem markPos_clearanceCopies (p : Fin 32) : (s.markPos p).clearanceCopies = s.clearanceCopies := rfl
@[simp] theorem markRow_clearanceCopies (c : Bool) : (s.markRow b c).clearanceCopies = s.clearanceCopies := by unfold State.markRow; split <;> rfl
@[simp] theorem markBlock_clearanceCopies (c : Bool) : (s.markBlock b c).clearanceCopies = s.clearanceCopies := by unfold State.markBlock; split <;> rfl
@[simp] theorem markHolder_clearanceCopies (h : Option Bay) (c : Bool) : (s.markHolder h c).clearanceCopies = s.clearanceCopies := by unfold State.markHolder; split <;> simp
@[simp] theorem markPos_orderSeqs (p : Fin 32) : (s.markPos p).orderSeqs = s.orderSeqs := rfl
@[simp] theorem markRow_orderSeqs (c : Bool) : (s.markRow b c).orderSeqs = s.orderSeqs := by unfold State.markRow; split <;> rfl
@[simp] theorem markBlock_orderSeqs (c : Bool) : (s.markBlock b c).orderSeqs = s.orderSeqs := by unfold State.markBlock; split <;> rfl
@[simp] theorem markHolder_orderSeqs (h : Option Bay) (c : Bool) : (s.markHolder h c).orderSeqs = s.orderSeqs := by unfold State.markHolder; split <;> simp
@[simp] theorem markPos_bays (p : Fin 32) : (s.markPos p).bays = s.bays := rfl
@[simp] theorem markRow_bays (c : Bool) : (s.markRow b c).bays = s.bays := by unfold State.markRow; split <;> rfl
@[simp] theorem markBlock_bays (c : Bool) : (s.markBlock b c).bays = s.bays := by unfold State.markBlock; split <;> rfl
@[simp] theorem markHolder_bays (h : Option Bay) (c : Bool) : (s.markHolder h c).bays = s.bays := by unfold State.markHolder; split <;> simp
@[simp] theorem markPos_lines (p : Fin 32) : (s.markPos p).lines = s.lines := rfl
@[simp] theorem markRow_lines (c : Bool) : (s.markRow b c).lines = s.lines := by unfold State.markRow; split <;> rfl
@[simp] theorem markBlock_lines (c : Bool) : (s.markBlock b c).lines = s.lines := by unfold State.markBlock; split <;> rfl
@[simp] theorem markHolder_lines (h : Option Bay) (c : Bool) : (s.markHolder h c).lines = s.lines := by unfold State.markHolder; split <;> simp
@[simp] theorem markPos_hold (p : Fin 32) : (s.markPos p).hold = s.hold := rfl
@[simp] theorem markRow_hold (c : Bool) : (s.markRow b c).hold = s.hold := by unfold State.markRow; split <;> rfl
@[simp] theorem markBlock_hold (c : Bool) : (s.markBlock b c).hold = s.hold := by unfold State.markBlock; split <;> rfl
@[simp] theorem markHolder_hold (h : Option Bay) (c : Bool) : (s.markHolder h c).hold = s.hold := by unfold State.markHolder; split <;> simp
@[simp] theorem markPos_ctrs (p : Fin 32) : (s.markPos p).ctrs = s.ctrs := rfl
@[simp] theorem markRow_ctrs (c : Bool) : (s.markRow b c).ctrs = s.ctrs := by unfold State.markRow; split <;> rfl
@[simp] theorem markBlock_ctrs (c : Bool) : (s.markBlock b c).ctrs = s.ctrs := by unfold State.markBlock; split <;> rfl
@[simp] theorem markHolder_ctrs (h : Option Bay) (c : Bool) : (s.markHolder h c).ctrs = s.ctrs := by unfold State.markHolder; split <;> simp
@[simp] theorem markPos_claims (p : Fin 32) : (s.markPos p).claims = s.claims := rfl
@[simp] theorem markRow_claims (c : Bool) : (s.markRow b c).claims = s.claims := by unfold State.markRow; split <;> rfl
@[simp] theorem markBlock_claims (c : Bool) : (s.markBlock b c).claims = s.claims := by unfold State.markBlock; split <;> rfl
@[simp] theorem markHolder_claims (h : Option Bay) (c : Bool) : (s.markHolder h c).claims = s.claims := by unfold State.markHolder; split <;> simp
@[simp] theorem markPos_admList (p : Fin 32) : (s.markPos p).admList = s.admList := rfl
@[simp] theorem markRow_admList (c : Bool) : (s.markRow b c).admList = s.admList := by unfold State.markRow; split <;> rfl
@[simp] theorem markBlock_admList (c : Bool) : (s.markBlock b c).admList = s.admList := by unfold State.markBlock; split <;> rfl
@[simp] theorem markHolder_admList (h : Option Bay) (c : Bool) : (s.markHolder h c).admList = s.admList := by unfold State.markHolder; split <;> simp
@[simp] theorem markPos_admCounter (p : Fin 32) : (s.markPos p).admCounter = s.admCounter := rfl
@[simp] theorem markRow_admCounter (c : Bool) : (s.markRow b c).admCounter = s.admCounter := by unfold State.markRow; split <;> rfl
@[simp] theorem markBlock_admCounter (c : Bool) : (s.markBlock b c).admCounter = s.admCounter := by unfold State.markBlock; split <;> rfl
@[simp] theorem markHolder_admCounter (h : Option Bay) (c : Bool) : (s.markHolder h c).admCounter = s.admCounter := by unfold State.markHolder; split <;> simp
@[simp] theorem markPos_effective (p : Fin 32) : (s.markPos p).effective = s.effective := rfl
@[simp] theorem markRow_effective (c : Bool) : (s.markRow b c).effective = s.effective := by unfold State.markRow; split <;> rfl
@[simp] theorem markBlock_effective (c : Bool) : (s.markBlock b c).effective = s.effective := by unfold State.markBlock; split <;> rfl
@[simp] theorem markHolder_effective (h : Option Bay) (c : Bool) : (s.markHolder h c).effective = s.effective := by unfold State.markHolder; split <;> simp
@[simp] theorem markPos_horizon (p : Fin 32) : (s.markPos p).horizon = s.horizon := rfl
@[simp] theorem markRow_horizon (c : Bool) : (s.markRow b c).horizon = s.horizon := by unfold State.markRow; split <;> rfl
@[simp] theorem markBlock_horizon (c : Bool) : (s.markBlock b c).horizon = s.horizon := by unfold State.markBlock; split <;> rfl
@[simp] theorem markHolder_horizon (h : Option Bay) (c : Bool) : (s.markHolder h c).horizon = s.horizon := by unfold State.markHolder; split <;> simp
@[simp] theorem markPos_sessions (p : Fin 32) : (s.markPos p).sessions = s.sessions := rfl
@[simp] theorem markRow_sessions (c : Bool) : (s.markRow b c).sessions = s.sessions := by unfold State.markRow; split <;> rfl
@[simp] theorem markBlock_sessions (c : Bool) : (s.markBlock b c).sessions = s.sessions := by unfold State.markBlock; split <;> rfl
@[simp] theorem markHolder_sessions (h : Option Bay) (c : Bool) : (s.markHolder h c).sessions = s.sessions := by unfold State.markHolder; split <;> simp
@[simp] theorem markPos_lampActs (p : Fin 32) : (s.markPos p).lampActs = s.lampActs := rfl
@[simp] theorem markRow_lampActs (c : Bool) : (s.markRow b c).lampActs = s.lampActs := by unfold State.markRow; split <;> rfl
@[simp] theorem markBlock_lampActs (c : Bool) : (s.markBlock b c).lampActs = s.lampActs := by unfold State.markBlock; split <;> rfl
@[simp] theorem markHolder_lampActs (h : Option Bay) (c : Bool) : (s.markHolder h c).lampActs = s.lampActs := by unfold State.markHolder; split <;> simp
@[simp] theorem markPos_faultActs (p : Fin 32) : (s.markPos p).faultActs = s.faultActs := rfl
@[simp] theorem markRow_faultActs (c : Bool) : (s.markRow b c).faultActs = s.faultActs := by unfold State.markRow; split <;> rfl
@[simp] theorem markBlock_faultActs (c : Bool) : (s.markBlock b c).faultActs = s.faultActs := by unfold State.markBlock; split <;> rfl
@[simp] theorem markHolder_faultActs (h : Option Bay) (c : Bool) : (s.markHolder h c).faultActs = s.faultActs := by unfold State.markHolder; split <;> simp
@[simp] theorem markPos_links (p : Fin 32) : (s.markPos p).links = s.links := rfl
@[simp] theorem markRow_links (c : Bool) : (s.markRow b c).links = s.links := by unfold State.markRow; split <;> rfl
@[simp] theorem markBlock_links (c : Bool) : (s.markBlock b c).links = s.links := by unfold State.markBlock; split <;> rfl
@[simp] theorem markHolder_links (h : Option Bay) (c : Bool) : (s.markHolder h c).links = s.links := by unfold State.markHolder; split <;> simp
@[simp] theorem markPos_lampChs (p : Fin 32) : (s.markPos p).lampChs = s.lampChs := rfl
@[simp] theorem markRow_lampChs (c : Bool) : (s.markRow b c).lampChs = s.lampChs := by unfold State.markRow; split <;> rfl
@[simp] theorem markBlock_lampChs (c : Bool) : (s.markBlock b c).lampChs = s.lampChs := by unfold State.markBlock; split <;> rfl
@[simp] theorem markHolder_lampChs (h : Option Bay) (c : Bool) : (s.markHolder h c).lampChs = s.lampChs := by unfold State.markHolder; split <;> simp
@[simp] theorem markPos_poolList (p : Fin 32) : (s.markPos p).poolList = s.poolList := rfl
@[simp] theorem markRow_poolList (c : Bool) : (s.markRow b c).poolList = s.poolList := by unfold State.markRow; split <;> rfl
@[simp] theorem markBlock_poolList (c : Bool) : (s.markBlock b c).poolList = s.poolList := by unfold State.markBlock; split <;> rfl
@[simp] theorem markHolder_poolList (h : Option Bay) (c : Bool) : (s.markHolder h c).poolList = s.poolList := by unfold State.markHolder; split <;> simp
@[simp] theorem markPos_poolCounter (p : Fin 32) : (s.markPos p).poolCounter = s.poolCounter := rfl
@[simp] theorem markRow_poolCounter (c : Bool) : (s.markRow b c).poolCounter = s.poolCounter := by unfold State.markRow; split <;> rfl
@[simp] theorem markBlock_poolCounter (c : Bool) : (s.markBlock b c).poolCounter = s.poolCounter := by unfold State.markBlock; split <;> rfl
@[simp] theorem markHolder_poolCounter (h : Option Bay) (c : Bool) : (s.markHolder h c).poolCounter = s.poolCounter := by unfold State.markHolder; split <;> simp
@[simp] theorem markPos_reservation (p : Fin 32) : (s.markPos p).reservation = s.reservation := rfl
@[simp] theorem markRow_reservation (c : Bool) : (s.markRow b c).reservation = s.reservation := by unfold State.markRow; split <;> rfl
@[simp] theorem markBlock_reservation (c : Bool) : (s.markBlock b c).reservation = s.reservation := by unfold State.markBlock; split <;> rfl
@[simp] theorem markHolder_reservation (h : Option Bay) (c : Bool) : (s.markHolder h c).reservation = s.reservation := by unfold State.markHolder; split <;> simp
@[simp] theorem markPos_resTimer (p : Fin 32) : (s.markPos p).resTimer = s.resTimer := rfl
@[simp] theorem markRow_resTimer (c : Bool) : (s.markRow b c).resTimer = s.resTimer := by unfold State.markRow; split <;> rfl
@[simp] theorem markBlock_resTimer (c : Bool) : (s.markBlock b c).resTimer = s.resTimer := by unfold State.markBlock; split <;> rfl
@[simp] theorem markHolder_resTimer (h : Option Bay) (c : Bool) : (s.markHolder h c).resTimer = s.resTimer := by unfold State.markHolder; split <;> simp
@[simp] theorem markPos_tables (p : Fin 32) : (s.markPos p).tables = s.tables := rfl
@[simp] theorem markRow_tables (c : Bool) : (s.markRow b c).tables = s.tables := by unfold State.markRow; split <;> rfl
@[simp] theorem markBlock_tables (c : Bool) : (s.markBlock b c).tables = s.tables := by unfold State.markBlock; split <;> rfl
@[simp] theorem markHolder_tables (h : Option Bay) (c : Bool) : (s.markHolder h c).tables = s.tables := by unfold State.markHolder; split <;> simp
@[simp] theorem markPos_summaries (p : Fin 32) : (s.markPos p).summaries = s.summaries := rfl
@[simp] theorem markRow_summaries (c : Bool) : (s.markRow b c).summaries = s.summaries := by unfold State.markRow; split <;> rfl
@[simp] theorem markBlock_summaries (c : Bool) : (s.markBlock b c).summaries = s.summaries := by unfold State.markBlock; split <;> rfl
@[simp] theorem markHolder_summaries (h : Option Bay) (c : Bool) : (s.markHolder h c).summaries = s.summaries := by unfold State.markHolder; split <;> simp
@[simp] theorem markPos_reads (p : Fin 32) : (s.markPos p).reads = s.reads := rfl
@[simp] theorem markRow_reads (c : Bool) : (s.markRow b c).reads = s.reads := by unfold State.markRow; split <;> rfl
@[simp] theorem markBlock_reads (c : Bool) : (s.markBlock b c).reads = s.reads := by unfold State.markBlock; split <;> rfl
@[simp] theorem markHolder_reads (h : Option Bay) (c : Bool) : (s.markHolder h c).reads = s.reads := by unfold State.markHolder; split <;> simp
@[simp] theorem markPos_lampWork (p : Fin 32) : (s.markPos p).lampWork = s.lampWork := rfl
@[simp] theorem markRow_lampWork (c : Bool) : (s.markRow b c).lampWork = s.lampWork := by unfold State.markRow; split <;> rfl
@[simp] theorem markBlock_lampWork (c : Bool) : (s.markBlock b c).lampWork = s.lampWork := by unfold State.markBlock; split <;> rfl
@[simp] theorem markHolder_lampWork (h : Option Bay) (c : Bool) : (s.markHolder h c).lampWork = s.lampWork := by unfold State.markHolder; split <;> simp
@[simp] theorem markPos_lampRes (p : Fin 32) : (s.markPos p).lampRes = s.lampRes := rfl
@[simp] theorem markRow_lampRes (c : Bool) : (s.markRow b c).lampRes = s.lampRes := by unfold State.markRow; split <;> rfl
@[simp] theorem markBlock_lampRes (c : Bool) : (s.markBlock b c).lampRes = s.lampRes := by unfold State.markBlock; split <;> rfl
@[simp] theorem markHolder_lampRes (h : Option Bay) (c : Bool) : (s.markHolder h c).lampRes = s.lampRes := by unfold State.markHolder; split <;> simp
@[simp] theorem markPos_heads (p : Fin 32) : (s.markPos p).heads = s.heads := rfl
@[simp] theorem markRow_heads (c : Bool) : (s.markRow b c).heads = s.heads := by unfold State.markRow; split <;> rfl
@[simp] theorem markBlock_heads (c : Bool) : (s.markBlock b c).heads = s.heads := by unfold State.markBlock; split <;> rfl
@[simp] theorem markHolder_heads (h : Option Bay) (c : Bool) : (s.markHolder h c).heads = s.heads := by unfold State.markHolder; split <;> simp
@[simp] theorem markPos_clr (p : Fin 32) : (s.markPos p).clr = s.clr := rfl
@[simp] theorem markRow_clr (c : Bool) : (s.markRow b c).clr = s.clr := by unfold State.markRow; split <;> rfl
@[simp] theorem markBlock_clr (c : Bool) : (s.markBlock b c).clr = s.clr := by unfold State.markBlock; split <;> rfl
@[simp] theorem markHolder_clr (h : Option Bay) (c : Bool) : (s.markHolder h c).clr = s.clr := by unfold State.markHolder; split <;> simp
@[simp] theorem markPos_ev (p : Fin 32) : (s.markPos p).ev = s.ev := rfl
@[simp] theorem markRow_ev (c : Bool) : (s.markRow b c).ev = s.ev := by unfold State.markRow; split <;> rfl
@[simp] theorem markBlock_ev (c : Bool) : (s.markBlock b c).ev = s.ev := by unfold State.markBlock; split <;> rfl
@[simp] theorem markHolder_ev (h : Option Bay) (c : Bool) : (s.markHolder h c).ev = s.ev := by unfold State.markHolder; split <;> simp
@[simp] theorem markPos_att (p : Fin 32) : (s.markPos p).att = s.att := rfl
@[simp] theorem markRow_att (c : Bool) : (s.markRow b c).att = s.att := by unfold State.markRow; split <;> rfl
@[simp] theorem markBlock_att (c : Bool) : (s.markBlock b c).att = s.att := by unfold State.markBlock; split <;> rfl
@[simp] theorem markHolder_att (h : Option Bay) (c : Bool) : (s.markHolder h c).att = s.att := by unfold State.markHolder; split <;> simp
@[simp] theorem markPos_hb (p : Fin 32) : (s.markPos p).hb = s.hb := rfl
@[simp] theorem markRow_hb (c : Bool) : (s.markRow b c).hb = s.hb := by unfold State.markRow; split <;> rfl
@[simp] theorem markBlock_hb (c : Bool) : (s.markBlock b c).hb = s.hb := by unfold State.markBlock; split <;> rfl
@[simp] theorem markHolder_hb (h : Option Bay) (c : Bool) : (s.markHolder h c).hb = s.hb := by unfold State.markHolder; split <;> simp
@[simp] theorem markPos_agenda (p : Fin 32) : (s.markPos p).agenda = s.agenda := rfl
@[simp] theorem markRow_agenda (c : Bool) : (s.markRow b c).agenda = s.agenda := by unfold State.markRow; split <;> rfl
@[simp] theorem markBlock_agenda (c : Bool) : (s.markBlock b c).agenda = s.agenda := by unfold State.markBlock; split <;> rfl
@[simp] theorem markHolder_agenda (h : Option Bay) (c : Bool) : (s.markHolder h c).agenda = s.agenda := by unfold State.markHolder; split <;> simp
@[simp] theorem askAdmission_pending : s.askAdmission.pending = s.pending := rfl
@[simp] theorem askLoad_pending (p q : Bool) : (s.askLoad p q).pending = s.pending := rfl
@[simp] theorem askPool_pending : s.askPool.pending = s.pending := rfl
@[simp] theorem askVetAll_pending : s.askVetAll.pending = s.pending := rfl
@[simp] theorem askVet_pending : (s.askVet b).pending = s.pending := rfl
@[simp] theorem askVetIf_pending (c : Bool) : (s.askVetIf b c).pending = s.pending := by unfold State.askVetIf; split <;> rfl
@[simp] theorem askAdmission_timeBase : s.askAdmission.timeBase = s.timeBase := rfl
@[simp] theorem askLoad_timeBase (p q : Bool) : (s.askLoad p q).timeBase = s.timeBase := rfl
@[simp] theorem askPool_timeBase : s.askPool.timeBase = s.timeBase := rfl
@[simp] theorem askVetAll_timeBase : s.askVetAll.timeBase = s.timeBase := rfl
@[simp] theorem askVet_timeBase : (s.askVet b).timeBase = s.timeBase := rfl
@[simp] theorem askVetIf_timeBase (c : Bool) : (s.askVetIf b c).timeBase = s.timeBase := by unfold State.askVetIf; split <;> rfl
@[simp] theorem askAdmission_clock : s.askAdmission.clock = s.clock := rfl
@[simp] theorem askLoad_clock (p q : Bool) : (s.askLoad p q).clock = s.clock := rfl
@[simp] theorem askPool_clock : s.askPool.clock = s.clock := rfl
@[simp] theorem askVetAll_clock : s.askVetAll.clock = s.clock := rfl
@[simp] theorem askVet_clock : (s.askVet b).clock = s.clock := rfl
@[simp] theorem askVetIf_clock (c : Bool) : (s.askVetIf b c).clock = s.clock := by unfold State.askVetIf; split <;> rfl
@[simp] theorem askAdmission_mem : s.askAdmission.mem = s.mem := rfl
@[simp] theorem askLoad_mem (p q : Bool) : (s.askLoad p q).mem = s.mem := rfl
@[simp] theorem askPool_mem : s.askPool.mem = s.mem := rfl
@[simp] theorem askVetAll_mem : s.askVetAll.mem = s.mem := rfl
@[simp] theorem askVet_mem : (s.askVet b).mem = s.mem := rfl
@[simp] theorem askVetIf_mem (c : Bool) : (s.askVetIf b c).mem = s.mem := by unfold State.askVetIf; split <;> rfl
@[simp] theorem askAdmission_path : s.askAdmission.path = s.path := rfl
@[simp] theorem askLoad_path (p q : Bool) : (s.askLoad p q).path = s.path := rfl
@[simp] theorem askPool_path : s.askPool.path = s.path := rfl
@[simp] theorem askVetAll_path : s.askVetAll.path = s.path := rfl
@[simp] theorem askVet_path : (s.askVet b).path = s.path := rfl
@[simp] theorem askVetIf_path (c : Bool) : (s.askVetIf b c).path = s.path := by unfold State.askVetIf; split <;> rfl
@[simp] theorem askAdmission_post : s.askAdmission.post = s.post := rfl
@[simp] theorem askLoad_post (p q : Bool) : (s.askLoad p q).post = s.post := rfl
@[simp] theorem askPool_post : s.askPool.post = s.post := rfl
@[simp] theorem askVetAll_post : s.askVetAll.post = s.post := rfl
@[simp] theorem askVet_post : (s.askVet b).post = s.post := rfl
@[simp] theorem askVetIf_post (c : Bool) : (s.askVetIf b c).post = s.post := by unfold State.askVetIf; split <;> rfl
@[simp] theorem askAdmission_cap : s.askAdmission.cap = s.cap := rfl
@[simp] theorem askLoad_cap (p q : Bool) : (s.askLoad p q).cap = s.cap := rfl
@[simp] theorem askPool_cap : s.askPool.cap = s.cap := rfl
@[simp] theorem askVetAll_cap : s.askVetAll.cap = s.cap := rfl
@[simp] theorem askVet_cap : (s.askVet b).cap = s.cap := rfl
@[simp] theorem askVetIf_cap (c : Bool) : (s.askVetIf b c).cap = s.cap := by unfold State.askVetIf; split <;> rfl
@[simp] theorem askAdmission_settings : s.askAdmission.settings = s.settings := rfl
@[simp] theorem askLoad_settings (p q : Bool) : (s.askLoad p q).settings = s.settings := rfl
@[simp] theorem askPool_settings : s.askPool.settings = s.settings := rfl
@[simp] theorem askVetAll_settings : s.askVetAll.settings = s.settings := rfl
@[simp] theorem askVet_settings : (s.askVet b).settings = s.settings := rfl
@[simp] theorem askVetIf_settings (c : Bool) : (s.askVetIf b c).settings = s.settings := by unfold State.askVetIf; split <;> rfl
@[simp] theorem askAdmission_clockSetCopy : s.askAdmission.clockSetCopy = s.clockSetCopy := rfl
@[simp] theorem askLoad_clockSetCopy (p q : Bool) : (s.askLoad p q).clockSetCopy = s.clockSetCopy := rfl
@[simp] theorem askPool_clockSetCopy : s.askPool.clockSetCopy = s.clockSetCopy := rfl
@[simp] theorem askVetAll_clockSetCopy : s.askVetAll.clockSetCopy = s.clockSetCopy := rfl
@[simp] theorem askVet_clockSetCopy : (s.askVet b).clockSetCopy = s.clockSetCopy := rfl
@[simp] theorem askVetIf_clockSetCopy (c : Bool) : (s.askVetIf b c).clockSetCopy = s.clockSetCopy := by unfold State.askVetIf; split <;> rfl
@[simp] theorem askAdmission_ackCopy : s.askAdmission.ackCopy = s.ackCopy := rfl
@[simp] theorem askLoad_ackCopy (p q : Bool) : (s.askLoad p q).ackCopy = s.ackCopy := rfl
@[simp] theorem askPool_ackCopy : s.askPool.ackCopy = s.ackCopy := rfl
@[simp] theorem askVetAll_ackCopy : s.askVetAll.ackCopy = s.ackCopy := rfl
@[simp] theorem askVet_ackCopy : (s.askVet b).ackCopy = s.ackCopy := rfl
@[simp] theorem askVetIf_ackCopy (c : Bool) : (s.askVetIf b c).ackCopy = s.ackCopy := by unfold State.askVetIf; split <;> rfl
@[simp] theorem askAdmission_classes : s.askAdmission.classes = s.classes := rfl
@[simp] theorem askLoad_classes (p q : Bool) : (s.askLoad p q).classes = s.classes := rfl
@[simp] theorem askPool_classes : s.askPool.classes = s.classes := rfl
@[simp] theorem askVetAll_classes : s.askVetAll.classes = s.classes := rfl
@[simp] theorem askVet_classes : (s.askVet b).classes = s.classes := rfl
@[simp] theorem askVetIf_classes (c : Bool) : (s.askVetIf b c).classes = s.classes := by unfold State.askVetIf; split <;> rfl
@[simp] theorem askAdmission_plans : s.askAdmission.plans = s.plans := rfl
@[simp] theorem askLoad_plans (p q : Bool) : (s.askLoad p q).plans = s.plans := rfl
@[simp] theorem askPool_plans : s.askPool.plans = s.plans := rfl
@[simp] theorem askVetAll_plans : s.askVetAll.plans = s.plans := rfl
@[simp] theorem askVet_plans : (s.askVet b).plans = s.plans := rfl
@[simp] theorem askVetIf_plans (c : Bool) : (s.askVetIf b c).plans = s.plans := by unfold State.askVetIf; split <;> rfl
@[simp] theorem askAdmission_clearanceCopies : s.askAdmission.clearanceCopies = s.clearanceCopies := rfl
@[simp] theorem askLoad_clearanceCopies (p q : Bool) : (s.askLoad p q).clearanceCopies = s.clearanceCopies := rfl
@[simp] theorem askPool_clearanceCopies : s.askPool.clearanceCopies = s.clearanceCopies := rfl
@[simp] theorem askVetAll_clearanceCopies : s.askVetAll.clearanceCopies = s.clearanceCopies := rfl
@[simp] theorem askVet_clearanceCopies : (s.askVet b).clearanceCopies = s.clearanceCopies := rfl
@[simp] theorem askVetIf_clearanceCopies (c : Bool) : (s.askVetIf b c).clearanceCopies = s.clearanceCopies := by unfold State.askVetIf; split <;> rfl
@[simp] theorem askAdmission_orderSeqs : s.askAdmission.orderSeqs = s.orderSeqs := rfl
@[simp] theorem askLoad_orderSeqs (p q : Bool) : (s.askLoad p q).orderSeqs = s.orderSeqs := rfl
@[simp] theorem askPool_orderSeqs : s.askPool.orderSeqs = s.orderSeqs := rfl
@[simp] theorem askVetAll_orderSeqs : s.askVetAll.orderSeqs = s.orderSeqs := rfl
@[simp] theorem askVet_orderSeqs : (s.askVet b).orderSeqs = s.orderSeqs := rfl
@[simp] theorem askVetIf_orderSeqs (c : Bool) : (s.askVetIf b c).orderSeqs = s.orderSeqs := by unfold State.askVetIf; split <;> rfl
@[simp] theorem askAdmission_bays : s.askAdmission.bays = s.bays := rfl
@[simp] theorem askLoad_bays (p q : Bool) : (s.askLoad p q).bays = s.bays := rfl
@[simp] theorem askPool_bays : s.askPool.bays = s.bays := rfl
@[simp] theorem askVetAll_bays : s.askVetAll.bays = s.bays := rfl
@[simp] theorem askVet_bays : (s.askVet b).bays = s.bays := rfl
@[simp] theorem askVetIf_bays (c : Bool) : (s.askVetIf b c).bays = s.bays := by unfold State.askVetIf; split <;> rfl
@[simp] theorem askAdmission_lines : s.askAdmission.lines = s.lines := rfl
@[simp] theorem askLoad_lines (p q : Bool) : (s.askLoad p q).lines = s.lines := rfl
@[simp] theorem askPool_lines : s.askPool.lines = s.lines := rfl
@[simp] theorem askVetAll_lines : s.askVetAll.lines = s.lines := rfl
@[simp] theorem askVet_lines : (s.askVet b).lines = s.lines := rfl
@[simp] theorem askVetIf_lines (c : Bool) : (s.askVetIf b c).lines = s.lines := by unfold State.askVetIf; split <;> rfl
@[simp] theorem askAdmission_hold : s.askAdmission.hold = s.hold := rfl
@[simp] theorem askLoad_hold (p q : Bool) : (s.askLoad p q).hold = s.hold := rfl
@[simp] theorem askPool_hold : s.askPool.hold = s.hold := rfl
@[simp] theorem askVetAll_hold : s.askVetAll.hold = s.hold := rfl
@[simp] theorem askVet_hold : (s.askVet b).hold = s.hold := rfl
@[simp] theorem askVetIf_hold (c : Bool) : (s.askVetIf b c).hold = s.hold := by unfold State.askVetIf; split <;> rfl
@[simp] theorem askAdmission_ctrs : s.askAdmission.ctrs = s.ctrs := rfl
@[simp] theorem askLoad_ctrs (p q : Bool) : (s.askLoad p q).ctrs = s.ctrs := rfl
@[simp] theorem askPool_ctrs : s.askPool.ctrs = s.ctrs := rfl
@[simp] theorem askVetAll_ctrs : s.askVetAll.ctrs = s.ctrs := rfl
@[simp] theorem askVet_ctrs : (s.askVet b).ctrs = s.ctrs := rfl
@[simp] theorem askVetIf_ctrs (c : Bool) : (s.askVetIf b c).ctrs = s.ctrs := by unfold State.askVetIf; split <;> rfl
@[simp] theorem askAdmission_claims : s.askAdmission.claims = s.claims := rfl
@[simp] theorem askLoad_claims (p q : Bool) : (s.askLoad p q).claims = s.claims := rfl
@[simp] theorem askPool_claims : s.askPool.claims = s.claims := rfl
@[simp] theorem askVetAll_claims : s.askVetAll.claims = s.claims := rfl
@[simp] theorem askVet_claims : (s.askVet b).claims = s.claims := rfl
@[simp] theorem askVetIf_claims (c : Bool) : (s.askVetIf b c).claims = s.claims := by unfold State.askVetIf; split <;> rfl
@[simp] theorem askAdmission_admList : s.askAdmission.admList = s.admList := rfl
@[simp] theorem askLoad_admList (p q : Bool) : (s.askLoad p q).admList = s.admList := rfl
@[simp] theorem askPool_admList : s.askPool.admList = s.admList := rfl
@[simp] theorem askVetAll_admList : s.askVetAll.admList = s.admList := rfl
@[simp] theorem askVet_admList : (s.askVet b).admList = s.admList := rfl
@[simp] theorem askVetIf_admList (c : Bool) : (s.askVetIf b c).admList = s.admList := by unfold State.askVetIf; split <;> rfl
@[simp] theorem askAdmission_admCounter : s.askAdmission.admCounter = s.admCounter := rfl
@[simp] theorem askLoad_admCounter (p q : Bool) : (s.askLoad p q).admCounter = s.admCounter := rfl
@[simp] theorem askPool_admCounter : s.askPool.admCounter = s.admCounter := rfl
@[simp] theorem askVetAll_admCounter : s.askVetAll.admCounter = s.admCounter := rfl
@[simp] theorem askVet_admCounter : (s.askVet b).admCounter = s.admCounter := rfl
@[simp] theorem askVetIf_admCounter (c : Bool) : (s.askVetIf b c).admCounter = s.admCounter := by unfold State.askVetIf; split <;> rfl
@[simp] theorem askAdmission_effective : s.askAdmission.effective = s.effective := rfl
@[simp] theorem askLoad_effective (p q : Bool) : (s.askLoad p q).effective = s.effective := rfl
@[simp] theorem askPool_effective : s.askPool.effective = s.effective := rfl
@[simp] theorem askVetAll_effective : s.askVetAll.effective = s.effective := rfl
@[simp] theorem askVet_effective : (s.askVet b).effective = s.effective := rfl
@[simp] theorem askVetIf_effective (c : Bool) : (s.askVetIf b c).effective = s.effective := by unfold State.askVetIf; split <;> rfl
@[simp] theorem askAdmission_horizon : s.askAdmission.horizon = s.horizon := rfl
@[simp] theorem askLoad_horizon (p q : Bool) : (s.askLoad p q).horizon = s.horizon := rfl
@[simp] theorem askPool_horizon : s.askPool.horizon = s.horizon := rfl
@[simp] theorem askVetAll_horizon : s.askVetAll.horizon = s.horizon := rfl
@[simp] theorem askVet_horizon : (s.askVet b).horizon = s.horizon := rfl
@[simp] theorem askVetIf_horizon (c : Bool) : (s.askVetIf b c).horizon = s.horizon := by unfold State.askVetIf; split <;> rfl
@[simp] theorem askAdmission_sessions : s.askAdmission.sessions = s.sessions := rfl
@[simp] theorem askLoad_sessions (p q : Bool) : (s.askLoad p q).sessions = s.sessions := rfl
@[simp] theorem askPool_sessions : s.askPool.sessions = s.sessions := rfl
@[simp] theorem askVetAll_sessions : s.askVetAll.sessions = s.sessions := rfl
@[simp] theorem askVet_sessions : (s.askVet b).sessions = s.sessions := rfl
@[simp] theorem askVetIf_sessions (c : Bool) : (s.askVetIf b c).sessions = s.sessions := by unfold State.askVetIf; split <;> rfl
@[simp] theorem askAdmission_lampActs : s.askAdmission.lampActs = s.lampActs := rfl
@[simp] theorem askLoad_lampActs (p q : Bool) : (s.askLoad p q).lampActs = s.lampActs := rfl
@[simp] theorem askPool_lampActs : s.askPool.lampActs = s.lampActs := rfl
@[simp] theorem askVetAll_lampActs : s.askVetAll.lampActs = s.lampActs := rfl
@[simp] theorem askVet_lampActs : (s.askVet b).lampActs = s.lampActs := rfl
@[simp] theorem askVetIf_lampActs (c : Bool) : (s.askVetIf b c).lampActs = s.lampActs := by unfold State.askVetIf; split <;> rfl
@[simp] theorem askAdmission_faultActs : s.askAdmission.faultActs = s.faultActs := rfl
@[simp] theorem askLoad_faultActs (p q : Bool) : (s.askLoad p q).faultActs = s.faultActs := rfl
@[simp] theorem askPool_faultActs : s.askPool.faultActs = s.faultActs := rfl
@[simp] theorem askVetAll_faultActs : s.askVetAll.faultActs = s.faultActs := rfl
@[simp] theorem askVet_faultActs : (s.askVet b).faultActs = s.faultActs := rfl
@[simp] theorem askVetIf_faultActs (c : Bool) : (s.askVetIf b c).faultActs = s.faultActs := by unfold State.askVetIf; split <;> rfl
@[simp] theorem askAdmission_links : s.askAdmission.links = s.links := rfl
@[simp] theorem askLoad_links (p q : Bool) : (s.askLoad p q).links = s.links := rfl
@[simp] theorem askPool_links : s.askPool.links = s.links := rfl
@[simp] theorem askVetAll_links : s.askVetAll.links = s.links := rfl
@[simp] theorem askVet_links : (s.askVet b).links = s.links := rfl
@[simp] theorem askVetIf_links (c : Bool) : (s.askVetIf b c).links = s.links := by unfold State.askVetIf; split <;> rfl
@[simp] theorem askAdmission_lampChs : s.askAdmission.lampChs = s.lampChs := rfl
@[simp] theorem askLoad_lampChs (p q : Bool) : (s.askLoad p q).lampChs = s.lampChs := rfl
@[simp] theorem askPool_lampChs : s.askPool.lampChs = s.lampChs := rfl
@[simp] theorem askVetAll_lampChs : s.askVetAll.lampChs = s.lampChs := rfl
@[simp] theorem askVet_lampChs : (s.askVet b).lampChs = s.lampChs := rfl
@[simp] theorem askVetIf_lampChs (c : Bool) : (s.askVetIf b c).lampChs = s.lampChs := by unfold State.askVetIf; split <;> rfl
@[simp] theorem askAdmission_poolList : s.askAdmission.poolList = s.poolList := rfl
@[simp] theorem askLoad_poolList (p q : Bool) : (s.askLoad p q).poolList = s.poolList := rfl
@[simp] theorem askPool_poolList : s.askPool.poolList = s.poolList := rfl
@[simp] theorem askVetAll_poolList : s.askVetAll.poolList = s.poolList := rfl
@[simp] theorem askVet_poolList : (s.askVet b).poolList = s.poolList := rfl
@[simp] theorem askVetIf_poolList (c : Bool) : (s.askVetIf b c).poolList = s.poolList := by unfold State.askVetIf; split <;> rfl
@[simp] theorem askAdmission_poolCounter : s.askAdmission.poolCounter = s.poolCounter := rfl
@[simp] theorem askLoad_poolCounter (p q : Bool) : (s.askLoad p q).poolCounter = s.poolCounter := rfl
@[simp] theorem askPool_poolCounter : s.askPool.poolCounter = s.poolCounter := rfl
@[simp] theorem askVetAll_poolCounter : s.askVetAll.poolCounter = s.poolCounter := rfl
@[simp] theorem askVet_poolCounter : (s.askVet b).poolCounter = s.poolCounter := rfl
@[simp] theorem askVetIf_poolCounter (c : Bool) : (s.askVetIf b c).poolCounter = s.poolCounter := by unfold State.askVetIf; split <;> rfl
@[simp] theorem askAdmission_reservation : s.askAdmission.reservation = s.reservation := rfl
@[simp] theorem askLoad_reservation (p q : Bool) : (s.askLoad p q).reservation = s.reservation := rfl
@[simp] theorem askPool_reservation : s.askPool.reservation = s.reservation := rfl
@[simp] theorem askVetAll_reservation : s.askVetAll.reservation = s.reservation := rfl
@[simp] theorem askVet_reservation : (s.askVet b).reservation = s.reservation := rfl
@[simp] theorem askVetIf_reservation (c : Bool) : (s.askVetIf b c).reservation = s.reservation := by unfold State.askVetIf; split <;> rfl
@[simp] theorem askAdmission_resTimer : s.askAdmission.resTimer = s.resTimer := rfl
@[simp] theorem askLoad_resTimer (p q : Bool) : (s.askLoad p q).resTimer = s.resTimer := rfl
@[simp] theorem askPool_resTimer : s.askPool.resTimer = s.resTimer := rfl
@[simp] theorem askVetAll_resTimer : s.askVetAll.resTimer = s.resTimer := rfl
@[simp] theorem askVet_resTimer : (s.askVet b).resTimer = s.resTimer := rfl
@[simp] theorem askVetIf_resTimer (c : Bool) : (s.askVetIf b c).resTimer = s.resTimer := by unfold State.askVetIf; split <;> rfl
@[simp] theorem askAdmission_tables : s.askAdmission.tables = s.tables := rfl
@[simp] theorem askLoad_tables (p q : Bool) : (s.askLoad p q).tables = s.tables := rfl
@[simp] theorem askPool_tables : s.askPool.tables = s.tables := rfl
@[simp] theorem askVetAll_tables : s.askVetAll.tables = s.tables := rfl
@[simp] theorem askVet_tables : (s.askVet b).tables = s.tables := rfl
@[simp] theorem askVetIf_tables (c : Bool) : (s.askVetIf b c).tables = s.tables := by unfold State.askVetIf; split <;> rfl
@[simp] theorem askAdmission_summaries : s.askAdmission.summaries = s.summaries := rfl
@[simp] theorem askLoad_summaries (p q : Bool) : (s.askLoad p q).summaries = s.summaries := rfl
@[simp] theorem askPool_summaries : s.askPool.summaries = s.summaries := rfl
@[simp] theorem askVetAll_summaries : s.askVetAll.summaries = s.summaries := rfl
@[simp] theorem askVet_summaries : (s.askVet b).summaries = s.summaries := rfl
@[simp] theorem askVetIf_summaries (c : Bool) : (s.askVetIf b c).summaries = s.summaries := by unfold State.askVetIf; split <;> rfl
@[simp] theorem askAdmission_reads : s.askAdmission.reads = s.reads := rfl
@[simp] theorem askLoad_reads (p q : Bool) : (s.askLoad p q).reads = s.reads := rfl
@[simp] theorem askPool_reads : s.askPool.reads = s.reads := rfl
@[simp] theorem askVetAll_reads : s.askVetAll.reads = s.reads := rfl
@[simp] theorem askVet_reads : (s.askVet b).reads = s.reads := rfl
@[simp] theorem askVetIf_reads (c : Bool) : (s.askVetIf b c).reads = s.reads := by unfold State.askVetIf; split <;> rfl
@[simp] theorem askAdmission_lampWork : s.askAdmission.lampWork = s.lampWork := rfl
@[simp] theorem askLoad_lampWork (p q : Bool) : (s.askLoad p q).lampWork = s.lampWork := rfl
@[simp] theorem askPool_lampWork : s.askPool.lampWork = s.lampWork := rfl
@[simp] theorem askVetAll_lampWork : s.askVetAll.lampWork = s.lampWork := rfl
@[simp] theorem askVet_lampWork : (s.askVet b).lampWork = s.lampWork := rfl
@[simp] theorem askVetIf_lampWork (c : Bool) : (s.askVetIf b c).lampWork = s.lampWork := by unfold State.askVetIf; split <;> rfl
@[simp] theorem askAdmission_lampRes : s.askAdmission.lampRes = s.lampRes := rfl
@[simp] theorem askLoad_lampRes (p q : Bool) : (s.askLoad p q).lampRes = s.lampRes := rfl
@[simp] theorem askPool_lampRes : s.askPool.lampRes = s.lampRes := rfl
@[simp] theorem askVetAll_lampRes : s.askVetAll.lampRes = s.lampRes := rfl
@[simp] theorem askVet_lampRes : (s.askVet b).lampRes = s.lampRes := rfl
@[simp] theorem askVetIf_lampRes (c : Bool) : (s.askVetIf b c).lampRes = s.lampRes := by unfold State.askVetIf; split <;> rfl
@[simp] theorem askAdmission_heads : s.askAdmission.heads = s.heads := rfl
@[simp] theorem askLoad_heads (p q : Bool) : (s.askLoad p q).heads = s.heads := rfl
@[simp] theorem askPool_heads : s.askPool.heads = s.heads := rfl
@[simp] theorem askVetAll_heads : s.askVetAll.heads = s.heads := rfl
@[simp] theorem askVet_heads : (s.askVet b).heads = s.heads := rfl
@[simp] theorem askVetIf_heads (c : Bool) : (s.askVetIf b c).heads = s.heads := by unfold State.askVetIf; split <;> rfl
@[simp] theorem askAdmission_clr : s.askAdmission.clr = s.clr := rfl
@[simp] theorem askLoad_clr (p q : Bool) : (s.askLoad p q).clr = s.clr := rfl
@[simp] theorem askPool_clr : s.askPool.clr = s.clr := rfl
@[simp] theorem askVetAll_clr : s.askVetAll.clr = s.clr := rfl
@[simp] theorem askVet_clr : (s.askVet b).clr = s.clr := rfl
@[simp] theorem askVetIf_clr (c : Bool) : (s.askVetIf b c).clr = s.clr := by unfold State.askVetIf; split <;> rfl
@[simp] theorem askAdmission_ev : s.askAdmission.ev = s.ev := rfl
@[simp] theorem askLoad_ev (p q : Bool) : (s.askLoad p q).ev = s.ev := rfl
@[simp] theorem askPool_ev : s.askPool.ev = s.ev := rfl
@[simp] theorem askVetAll_ev : s.askVetAll.ev = s.ev := rfl
@[simp] theorem askVet_ev : (s.askVet b).ev = s.ev := rfl
@[simp] theorem askVetIf_ev (c : Bool) : (s.askVetIf b c).ev = s.ev := by unfold State.askVetIf; split <;> rfl
@[simp] theorem askAdmission_att : s.askAdmission.att = s.att := rfl
@[simp] theorem askLoad_att (p q : Bool) : (s.askLoad p q).att = s.att := rfl
@[simp] theorem askPool_att : s.askPool.att = s.att := rfl
@[simp] theorem askVetAll_att : s.askVetAll.att = s.att := rfl
@[simp] theorem askVet_att : (s.askVet b).att = s.att := rfl
@[simp] theorem askVetIf_att (c : Bool) : (s.askVetIf b c).att = s.att := by unfold State.askVetIf; split <;> rfl
@[simp] theorem askAdmission_hb : s.askAdmission.hb = s.hb := rfl
@[simp] theorem askLoad_hb (p q : Bool) : (s.askLoad p q).hb = s.hb := rfl
@[simp] theorem askPool_hb : s.askPool.hb = s.hb := rfl
@[simp] theorem askVetAll_hb : s.askVetAll.hb = s.hb := rfl
@[simp] theorem askVet_hb : (s.askVet b).hb = s.hb := rfl
@[simp] theorem askVetIf_hb (c : Bool) : (s.askVetIf b c).hb = s.hb := by unfold State.askVetIf; split <;> rfl

/-! ### Setters -/

@[simp] theorem setBay_pending (r : BayRec) : (s.setBay b r).pending = s.pending := by simp [State.setBay]
@[simp] theorem setBay_timeBase (r : BayRec) : (s.setBay b r).timeBase = s.timeBase := by simp [State.setBay]
@[simp] theorem setBay_clock (r : BayRec) : (s.setBay b r).clock = s.clock := by simp [State.setBay]
@[simp] theorem setBay_mem (r : BayRec) : (s.setBay b r).mem = s.mem := by simp [State.setBay]
@[simp] theorem setBay_path (r : BayRec) : (s.setBay b r).path = s.path := by simp [State.setBay]
@[simp] theorem setBay_cap (r : BayRec) : (s.setBay b r).cap = s.cap := by simp [State.setBay]
@[simp] theorem setBay_settings (r : BayRec) : (s.setBay b r).settings = s.settings := by simp [State.setBay]
@[simp] theorem setBay_clockSetCopy (r : BayRec) : (s.setBay b r).clockSetCopy = s.clockSetCopy := by simp [State.setBay]
@[simp] theorem setBay_ackCopy (r : BayRec) : (s.setBay b r).ackCopy = s.ackCopy := by simp [State.setBay]
@[simp] theorem setBay_classes (r : BayRec) : (s.setBay b r).classes = s.classes := by simp [State.setBay]
@[simp] theorem setBay_plans (r : BayRec) : (s.setBay b r).plans = s.plans := by simp [State.setBay]
@[simp] theorem setBay_clearanceCopies (r : BayRec) : (s.setBay b r).clearanceCopies = s.clearanceCopies := by simp [State.setBay]
@[simp] theorem setBay_orderSeqs (r : BayRec) : (s.setBay b r).orderSeqs = s.orderSeqs := by simp [State.setBay]
@[simp] theorem setBay_bays (r : BayRec) : (s.setBay b r).bays = vset s.bays b r := by simp [State.setBay]
@[simp] theorem setBay_lines (r : BayRec) : (s.setBay b r).lines = s.lines := by simp [State.setBay]
@[simp] theorem setBay_hold (r : BayRec) : (s.setBay b r).hold = s.hold := by simp [State.setBay]
@[simp] theorem setBay_ctrs (r : BayRec) : (s.setBay b r).ctrs = s.ctrs := by simp [State.setBay]
@[simp] theorem setBay_claims (r : BayRec) : (s.setBay b r).claims = s.claims := by simp [State.setBay]
@[simp] theorem setBay_admList (r : BayRec) : (s.setBay b r).admList = s.admList := by simp [State.setBay]
@[simp] theorem setBay_admCounter (r : BayRec) : (s.setBay b r).admCounter = s.admCounter := by simp [State.setBay]
@[simp] theorem setBay_effective (r : BayRec) : (s.setBay b r).effective = s.effective := by simp [State.setBay]
@[simp] theorem setBay_horizon (r : BayRec) : (s.setBay b r).horizon = s.horizon := by simp [State.setBay]
@[simp] theorem setBay_sessions (r : BayRec) : (s.setBay b r).sessions = s.sessions := by simp [State.setBay]
@[simp] theorem setBay_lampActs (r : BayRec) : (s.setBay b r).lampActs = s.lampActs := by simp [State.setBay]
@[simp] theorem setBay_faultActs (r : BayRec) : (s.setBay b r).faultActs = s.faultActs := by simp [State.setBay]
@[simp] theorem setBay_links (r : BayRec) : (s.setBay b r).links = s.links := by simp [State.setBay]
@[simp] theorem setBay_lampChs (r : BayRec) : (s.setBay b r).lampChs = s.lampChs := by simp [State.setBay]
@[simp] theorem setBay_poolList (r : BayRec) : (s.setBay b r).poolList = s.poolList := by simp [State.setBay]
@[simp] theorem setBay_poolCounter (r : BayRec) : (s.setBay b r).poolCounter = s.poolCounter := by simp [State.setBay]
@[simp] theorem setBay_reservation (r : BayRec) : (s.setBay b r).reservation = s.reservation := by simp [State.setBay]
@[simp] theorem setBay_resTimer (r : BayRec) : (s.setBay b r).resTimer = s.resTimer := by simp [State.setBay]
@[simp] theorem setBay_tables (r : BayRec) : (s.setBay b r).tables = s.tables := by simp [State.setBay]
@[simp] theorem setBay_summaries (r : BayRec) : (s.setBay b r).summaries = s.summaries := by simp [State.setBay]
@[simp] theorem setBay_reads (r : BayRec) : (s.setBay b r).reads = s.reads := by simp [State.setBay]
@[simp] theorem setBay_lampWork (r : BayRec) : (s.setBay b r).lampWork = s.lampWork := by simp [State.setBay]
@[simp] theorem setBay_lampRes (r : BayRec) : (s.setBay b r).lampRes = s.lampRes := by simp [State.setBay]
@[simp] theorem setBay_heads (r : BayRec) : (s.setBay b r).heads = s.heads := by simp [State.setBay]
@[simp] theorem setBay_clr (r : BayRec) : (s.setBay b r).clr = s.clr := by simp [State.setBay]
@[simp] theorem setBay_ev (r : BayRec) : (s.setBay b r).ev = s.ev := by simp [State.setBay]
@[simp] theorem setBay_att (r : BayRec) : (s.setBay b r).att = s.att := by simp [State.setBay]
@[simp] theorem setBay_hb (r : BayRec) : (s.setBay b r).hb = s.hb := by simp [State.setBay]
@[simp] theorem setLines_pending (r : BayLines) : (s.setLines b r).pending = s.pending := by simp [State.setLines]
@[simp] theorem setLines_timeBase (r : BayLines) : (s.setLines b r).timeBase = s.timeBase := by simp [State.setLines]
@[simp] theorem setLines_clock (r : BayLines) : (s.setLines b r).clock = s.clock := by simp [State.setLines]
@[simp] theorem setLines_mem (r : BayLines) : (s.setLines b r).mem = s.mem := by simp [State.setLines]
@[simp] theorem setLines_path (r : BayLines) : (s.setLines b r).path = s.path := by simp [State.setLines]
@[simp] theorem setLines_cap (r : BayLines) : (s.setLines b r).cap = s.cap := by simp [State.setLines]
@[simp] theorem setLines_settings (r : BayLines) : (s.setLines b r).settings = s.settings := by simp [State.setLines]
@[simp] theorem setLines_clockSetCopy (r : BayLines) : (s.setLines b r).clockSetCopy = s.clockSetCopy := by simp [State.setLines]
@[simp] theorem setLines_ackCopy (r : BayLines) : (s.setLines b r).ackCopy = s.ackCopy := by simp [State.setLines]
@[simp] theorem setLines_classes (r : BayLines) : (s.setLines b r).classes = s.classes := by simp [State.setLines]
@[simp] theorem setLines_plans (r : BayLines) : (s.setLines b r).plans = s.plans := by simp [State.setLines]
@[simp] theorem setLines_clearanceCopies (r : BayLines) : (s.setLines b r).clearanceCopies = s.clearanceCopies := by simp [State.setLines]
@[simp] theorem setLines_orderSeqs (r : BayLines) : (s.setLines b r).orderSeqs = s.orderSeqs := by simp [State.setLines]
@[simp] theorem setLines_bays (r : BayLines) : (s.setLines b r).bays = s.bays := by simp [State.setLines]
@[simp] theorem setLines_lines (r : BayLines) : (s.setLines b r).lines = vset s.lines b r := by simp [State.setLines]
@[simp] theorem setLines_hold (r : BayLines) : (s.setLines b r).hold = s.hold := by simp [State.setLines]
@[simp] theorem setLines_ctrs (r : BayLines) : (s.setLines b r).ctrs = s.ctrs := by simp [State.setLines]
@[simp] theorem setLines_claims (r : BayLines) : (s.setLines b r).claims = s.claims := by simp [State.setLines]
@[simp] theorem setLines_admList (r : BayLines) : (s.setLines b r).admList = s.admList := by simp [State.setLines]
@[simp] theorem setLines_admCounter (r : BayLines) : (s.setLines b r).admCounter = s.admCounter := by simp [State.setLines]
@[simp] theorem setLines_effective (r : BayLines) : (s.setLines b r).effective = s.effective := by simp [State.setLines]
@[simp] theorem setLines_horizon (r : BayLines) : (s.setLines b r).horizon = s.horizon := by simp [State.setLines]
@[simp] theorem setLines_sessions (r : BayLines) : (s.setLines b r).sessions = s.sessions := by simp [State.setLines]
@[simp] theorem setLines_lampActs (r : BayLines) : (s.setLines b r).lampActs = s.lampActs := by simp [State.setLines]
@[simp] theorem setLines_faultActs (r : BayLines) : (s.setLines b r).faultActs = s.faultActs := by simp [State.setLines]
@[simp] theorem setLines_links (r : BayLines) : (s.setLines b r).links = s.links := by simp [State.setLines]
@[simp] theorem setLines_lampChs (r : BayLines) : (s.setLines b r).lampChs = s.lampChs := by simp [State.setLines]
@[simp] theorem setLines_poolList (r : BayLines) : (s.setLines b r).poolList = s.poolList := by simp [State.setLines]
@[simp] theorem setLines_poolCounter (r : BayLines) : (s.setLines b r).poolCounter = s.poolCounter := by simp [State.setLines]
@[simp] theorem setLines_reservation (r : BayLines) : (s.setLines b r).reservation = s.reservation := by simp [State.setLines]
@[simp] theorem setLines_resTimer (r : BayLines) : (s.setLines b r).resTimer = s.resTimer := by simp [State.setLines]
@[simp] theorem setLines_tables (r : BayLines) : (s.setLines b r).tables = s.tables := by simp [State.setLines]
@[simp] theorem setLines_summaries (r : BayLines) : (s.setLines b r).summaries = s.summaries := by simp [State.setLines]
@[simp] theorem setLines_reads (r : BayLines) : (s.setLines b r).reads = s.reads := by simp [State.setLines]
@[simp] theorem setLines_lampWork (r : BayLines) : (s.setLines b r).lampWork = s.lampWork := by simp [State.setLines]
@[simp] theorem setLines_lampRes (r : BayLines) : (s.setLines b r).lampRes = s.lampRes := by simp [State.setLines]
@[simp] theorem setLines_heads (r : BayLines) : (s.setLines b r).heads = s.heads := by simp [State.setLines]
@[simp] theorem setLines_clr (r : BayLines) : (s.setLines b r).clr = s.clr := by simp [State.setLines]
@[simp] theorem setLines_ev (r : BayLines) : (s.setLines b r).ev = s.ev := by simp [State.setLines]
@[simp] theorem setLines_att (r : BayLines) : (s.setLines b r).att = s.att := by simp [State.setLines]
@[simp] theorem setLines_hb (r : BayLines) : (s.setLines b r).hb = s.hb := by simp [State.setLines]
@[simp] theorem setCtr_pending (r : Contactor) : (s.setCtr b r).pending = s.pending := by simp [State.setCtr]
@[simp] theorem setCtr_timeBase (r : Contactor) : (s.setCtr b r).timeBase = s.timeBase := by simp [State.setCtr]
@[simp] theorem setCtr_clock (r : Contactor) : (s.setCtr b r).clock = s.clock := by simp [State.setCtr]
@[simp] theorem setCtr_mem (r : Contactor) : (s.setCtr b r).mem = s.mem := by simp [State.setCtr]
@[simp] theorem setCtr_path (r : Contactor) : (s.setCtr b r).path = s.path := by simp [State.setCtr]
@[simp] theorem setCtr_cap (r : Contactor) : (s.setCtr b r).cap = s.cap := by simp [State.setCtr]
@[simp] theorem setCtr_settings (r : Contactor) : (s.setCtr b r).settings = s.settings := by simp [State.setCtr]
@[simp] theorem setCtr_clockSetCopy (r : Contactor) : (s.setCtr b r).clockSetCopy = s.clockSetCopy := by simp [State.setCtr]
@[simp] theorem setCtr_ackCopy (r : Contactor) : (s.setCtr b r).ackCopy = s.ackCopy := by simp [State.setCtr]
@[simp] theorem setCtr_classes (r : Contactor) : (s.setCtr b r).classes = s.classes := by simp [State.setCtr]
@[simp] theorem setCtr_plans (r : Contactor) : (s.setCtr b r).plans = s.plans := by simp [State.setCtr]
@[simp] theorem setCtr_clearanceCopies (r : Contactor) : (s.setCtr b r).clearanceCopies = s.clearanceCopies := by simp [State.setCtr]
@[simp] theorem setCtr_orderSeqs (r : Contactor) : (s.setCtr b r).orderSeqs = s.orderSeqs := by simp [State.setCtr]
@[simp] theorem setCtr_bays (r : Contactor) : (s.setCtr b r).bays = s.bays := by simp [State.setCtr]
@[simp] theorem setCtr_lines (r : Contactor) : (s.setCtr b r).lines = s.lines := by simp [State.setCtr]
@[simp] theorem setCtr_hold (r : Contactor) : (s.setCtr b r).hold = s.hold := by simp [State.setCtr]
@[simp] theorem setCtr_ctrs (r : Contactor) : (s.setCtr b r).ctrs = vset s.ctrs b r := by simp [State.setCtr]
@[simp] theorem setCtr_claims (r : Contactor) : (s.setCtr b r).claims = s.claims := by simp [State.setCtr]
@[simp] theorem setCtr_admList (r : Contactor) : (s.setCtr b r).admList = s.admList := by simp [State.setCtr]
@[simp] theorem setCtr_admCounter (r : Contactor) : (s.setCtr b r).admCounter = s.admCounter := by simp [State.setCtr]
@[simp] theorem setCtr_effective (r : Contactor) : (s.setCtr b r).effective = s.effective := by simp [State.setCtr]
@[simp] theorem setCtr_horizon (r : Contactor) : (s.setCtr b r).horizon = s.horizon := by simp [State.setCtr]
@[simp] theorem setCtr_sessions (r : Contactor) : (s.setCtr b r).sessions = s.sessions := by simp [State.setCtr]
@[simp] theorem setCtr_lampActs (r : Contactor) : (s.setCtr b r).lampActs = s.lampActs := by simp [State.setCtr]
@[simp] theorem setCtr_faultActs (r : Contactor) : (s.setCtr b r).faultActs = s.faultActs := by simp [State.setCtr]
@[simp] theorem setCtr_links (r : Contactor) : (s.setCtr b r).links = s.links := by simp [State.setCtr]
@[simp] theorem setCtr_lampChs (r : Contactor) : (s.setCtr b r).lampChs = s.lampChs := by simp [State.setCtr]
@[simp] theorem setCtr_poolList (r : Contactor) : (s.setCtr b r).poolList = s.poolList := by simp [State.setCtr]
@[simp] theorem setCtr_poolCounter (r : Contactor) : (s.setCtr b r).poolCounter = s.poolCounter := by simp [State.setCtr]
@[simp] theorem setCtr_reservation (r : Contactor) : (s.setCtr b r).reservation = s.reservation := by simp [State.setCtr]
@[simp] theorem setCtr_resTimer (r : Contactor) : (s.setCtr b r).resTimer = s.resTimer := by simp [State.setCtr]
@[simp] theorem setCtr_tables (r : Contactor) : (s.setCtr b r).tables = s.tables := by simp [State.setCtr]
@[simp] theorem setCtr_summaries (r : Contactor) : (s.setCtr b r).summaries = s.summaries := by simp [State.setCtr]
@[simp] theorem setCtr_reads (r : Contactor) : (s.setCtr b r).reads = s.reads := by simp [State.setCtr]
@[simp] theorem setCtr_lampWork (r : Contactor) : (s.setCtr b r).lampWork = s.lampWork := by simp [State.setCtr]
@[simp] theorem setCtr_lampRes (r : Contactor) : (s.setCtr b r).lampRes = s.lampRes := by simp [State.setCtr]
@[simp] theorem setCtr_heads (r : Contactor) : (s.setCtr b r).heads = s.heads := by simp [State.setCtr]
@[simp] theorem setCtr_clr (r : Contactor) : (s.setCtr b r).clr = s.clr := by simp [State.setCtr]
@[simp] theorem setCtr_ev (r : Contactor) : (s.setCtr b r).ev = s.ev := by simp [State.setCtr]
@[simp] theorem setCtr_att (r : Contactor) : (s.setCtr b r).att = s.att := by simp [State.setCtr]
@[simp] theorem setCtr_hb (r : Contactor) : (s.setCtr b r).hb = s.hb := by simp [State.setCtr]
@[simp] theorem setClaim_pending (r : ClaimRec) : (s.setClaim b r).pending = s.pending := by simp [State.setClaim]
@[simp] theorem setClaim_timeBase (r : ClaimRec) : (s.setClaim b r).timeBase = s.timeBase := by simp [State.setClaim]
@[simp] theorem setClaim_clock (r : ClaimRec) : (s.setClaim b r).clock = s.clock := by simp [State.setClaim]
@[simp] theorem setClaim_mem (r : ClaimRec) : (s.setClaim b r).mem = s.mem := by simp [State.setClaim]
@[simp] theorem setClaim_path (r : ClaimRec) : (s.setClaim b r).path = s.path := by simp [State.setClaim]
@[simp] theorem setClaim_cap (r : ClaimRec) : (s.setClaim b r).cap = s.cap := by simp [State.setClaim]
@[simp] theorem setClaim_settings (r : ClaimRec) : (s.setClaim b r).settings = s.settings := by simp [State.setClaim]
@[simp] theorem setClaim_clockSetCopy (r : ClaimRec) : (s.setClaim b r).clockSetCopy = s.clockSetCopy := by simp [State.setClaim]
@[simp] theorem setClaim_ackCopy (r : ClaimRec) : (s.setClaim b r).ackCopy = s.ackCopy := by simp [State.setClaim]
@[simp] theorem setClaim_classes (r : ClaimRec) : (s.setClaim b r).classes = s.classes := by simp [State.setClaim]
@[simp] theorem setClaim_plans (r : ClaimRec) : (s.setClaim b r).plans = s.plans := by simp [State.setClaim]
@[simp] theorem setClaim_clearanceCopies (r : ClaimRec) : (s.setClaim b r).clearanceCopies = s.clearanceCopies := by simp [State.setClaim]
@[simp] theorem setClaim_orderSeqs (r : ClaimRec) : (s.setClaim b r).orderSeqs = s.orderSeqs := by simp [State.setClaim]
@[simp] theorem setClaim_bays (r : ClaimRec) : (s.setClaim b r).bays = s.bays := by simp [State.setClaim]
@[simp] theorem setClaim_lines (r : ClaimRec) : (s.setClaim b r).lines = s.lines := by simp [State.setClaim]
@[simp] theorem setClaim_hold (r : ClaimRec) : (s.setClaim b r).hold = s.hold := by simp [State.setClaim]
@[simp] theorem setClaim_ctrs (r : ClaimRec) : (s.setClaim b r).ctrs = s.ctrs := by simp [State.setClaim]
@[simp] theorem setClaim_claims (r : ClaimRec) : (s.setClaim b r).claims = vset s.claims b r := by simp [State.setClaim]
@[simp] theorem setClaim_admList (r : ClaimRec) : (s.setClaim b r).admList = s.admList := by simp [State.setClaim]
@[simp] theorem setClaim_admCounter (r : ClaimRec) : (s.setClaim b r).admCounter = s.admCounter := by simp [State.setClaim]
@[simp] theorem setClaim_effective (r : ClaimRec) : (s.setClaim b r).effective = s.effective := by simp [State.setClaim]
@[simp] theorem setClaim_horizon (r : ClaimRec) : (s.setClaim b r).horizon = s.horizon := by simp [State.setClaim]
@[simp] theorem setClaim_sessions (r : ClaimRec) : (s.setClaim b r).sessions = s.sessions := by simp [State.setClaim]
@[simp] theorem setClaim_lampActs (r : ClaimRec) : (s.setClaim b r).lampActs = s.lampActs := by simp [State.setClaim]
@[simp] theorem setClaim_faultActs (r : ClaimRec) : (s.setClaim b r).faultActs = s.faultActs := by simp [State.setClaim]
@[simp] theorem setClaim_links (r : ClaimRec) : (s.setClaim b r).links = s.links := by simp [State.setClaim]
@[simp] theorem setClaim_lampChs (r : ClaimRec) : (s.setClaim b r).lampChs = s.lampChs := by simp [State.setClaim]
@[simp] theorem setClaim_poolList (r : ClaimRec) : (s.setClaim b r).poolList = s.poolList := by simp [State.setClaim]
@[simp] theorem setClaim_poolCounter (r : ClaimRec) : (s.setClaim b r).poolCounter = s.poolCounter := by simp [State.setClaim]
@[simp] theorem setClaim_reservation (r : ClaimRec) : (s.setClaim b r).reservation = s.reservation := by simp [State.setClaim]
@[simp] theorem setClaim_resTimer (r : ClaimRec) : (s.setClaim b r).resTimer = s.resTimer := by simp [State.setClaim]
@[simp] theorem setClaim_tables (r : ClaimRec) : (s.setClaim b r).tables = s.tables := by simp [State.setClaim]
@[simp] theorem setClaim_summaries (r : ClaimRec) : (s.setClaim b r).summaries = s.summaries := by simp [State.setClaim]
@[simp] theorem setClaim_reads (r : ClaimRec) : (s.setClaim b r).reads = s.reads := by simp [State.setClaim]
@[simp] theorem setClaim_lampWork (r : ClaimRec) : (s.setClaim b r).lampWork = s.lampWork := by simp [State.setClaim]
@[simp] theorem setClaim_lampRes (r : ClaimRec) : (s.setClaim b r).lampRes = s.lampRes := by simp [State.setClaim]
@[simp] theorem setClaim_heads (r : ClaimRec) : (s.setClaim b r).heads = s.heads := by simp [State.setClaim]
@[simp] theorem setClaim_clr (r : ClaimRec) : (s.setClaim b r).clr = s.clr := by simp [State.setClaim]
@[simp] theorem setClaim_ev (r : ClaimRec) : (s.setClaim b r).ev = s.ev := by simp [State.setClaim]
@[simp] theorem setClaim_att (r : ClaimRec) : (s.setClaim b r).att = s.att := by simp [State.setClaim]
@[simp] theorem setClaim_hb (r : ClaimRec) : (s.setClaim b r).hb = s.hb := by simp [State.setClaim]
@[simp] theorem setSession_pending (r : Session) : (s.setSession b r).pending = s.pending := by simp [State.setSession]
@[simp] theorem setSession_timeBase (r : Session) : (s.setSession b r).timeBase = s.timeBase := by simp [State.setSession]
@[simp] theorem setSession_clock (r : Session) : (s.setSession b r).clock = s.clock := by simp [State.setSession]
@[simp] theorem setSession_mem (r : Session) : (s.setSession b r).mem = s.mem := by simp [State.setSession]
@[simp] theorem setSession_path (r : Session) : (s.setSession b r).path = s.path := by simp [State.setSession]
@[simp] theorem setSession_cap (r : Session) : (s.setSession b r).cap = s.cap := by simp [State.setSession]
@[simp] theorem setSession_settings (r : Session) : (s.setSession b r).settings = s.settings := by simp [State.setSession]
@[simp] theorem setSession_clockSetCopy (r : Session) : (s.setSession b r).clockSetCopy = s.clockSetCopy := by simp [State.setSession]
@[simp] theorem setSession_ackCopy (r : Session) : (s.setSession b r).ackCopy = s.ackCopy := by simp [State.setSession]
@[simp] theorem setSession_classes (r : Session) : (s.setSession b r).classes = s.classes := by simp [State.setSession]
@[simp] theorem setSession_plans (r : Session) : (s.setSession b r).plans = s.plans := by simp [State.setSession]
@[simp] theorem setSession_clearanceCopies (r : Session) : (s.setSession b r).clearanceCopies = s.clearanceCopies := by simp [State.setSession]
@[simp] theorem setSession_orderSeqs (r : Session) : (s.setSession b r).orderSeqs = s.orderSeqs := by simp [State.setSession]
@[simp] theorem setSession_bays (r : Session) : (s.setSession b r).bays = s.bays := by simp [State.setSession]
@[simp] theorem setSession_lines (r : Session) : (s.setSession b r).lines = s.lines := by simp [State.setSession]
@[simp] theorem setSession_hold (r : Session) : (s.setSession b r).hold = s.hold := by simp [State.setSession]
@[simp] theorem setSession_ctrs (r : Session) : (s.setSession b r).ctrs = s.ctrs := by simp [State.setSession]
@[simp] theorem setSession_claims (r : Session) : (s.setSession b r).claims = s.claims := by simp [State.setSession]
@[simp] theorem setSession_admList (r : Session) : (s.setSession b r).admList = s.admList := by simp [State.setSession]
@[simp] theorem setSession_admCounter (r : Session) : (s.setSession b r).admCounter = s.admCounter := by simp [State.setSession]
@[simp] theorem setSession_effective (r : Session) : (s.setSession b r).effective = s.effective := by simp [State.setSession]
@[simp] theorem setSession_horizon (r : Session) : (s.setSession b r).horizon = s.horizon := by simp [State.setSession]
@[simp] theorem setSession_sessions (r : Session) : (s.setSession b r).sessions = vset s.sessions b r := by simp [State.setSession]
@[simp] theorem setSession_lampActs (r : Session) : (s.setSession b r).lampActs = s.lampActs := by simp [State.setSession]
@[simp] theorem setSession_faultActs (r : Session) : (s.setSession b r).faultActs = s.faultActs := by simp [State.setSession]
@[simp] theorem setSession_links (r : Session) : (s.setSession b r).links = s.links := by simp [State.setSession]
@[simp] theorem setSession_lampChs (r : Session) : (s.setSession b r).lampChs = s.lampChs := by simp [State.setSession]
@[simp] theorem setSession_poolList (r : Session) : (s.setSession b r).poolList = s.poolList := by simp [State.setSession]
@[simp] theorem setSession_poolCounter (r : Session) : (s.setSession b r).poolCounter = s.poolCounter := by simp [State.setSession]
@[simp] theorem setSession_reservation (r : Session) : (s.setSession b r).reservation = s.reservation := by simp [State.setSession]
@[simp] theorem setSession_resTimer (r : Session) : (s.setSession b r).resTimer = s.resTimer := by simp [State.setSession]
@[simp] theorem setSession_tables (r : Session) : (s.setSession b r).tables = s.tables := by simp [State.setSession]
@[simp] theorem setSession_summaries (r : Session) : (s.setSession b r).summaries = s.summaries := by simp [State.setSession]
@[simp] theorem setSession_reads (r : Session) : (s.setSession b r).reads = s.reads := by simp [State.setSession]
@[simp] theorem setSession_lampWork (r : Session) : (s.setSession b r).lampWork = s.lampWork := by simp [State.setSession]
@[simp] theorem setSession_lampRes (r : Session) : (s.setSession b r).lampRes = s.lampRes := by simp [State.setSession]
@[simp] theorem setSession_heads (r : Session) : (s.setSession b r).heads = s.heads := by simp [State.setSession]
@[simp] theorem setSession_clr (r : Session) : (s.setSession b r).clr = s.clr := by simp [State.setSession]
@[simp] theorem setSession_ev (r : Session) : (s.setSession b r).ev = s.ev := by simp [State.setSession]
@[simp] theorem setSession_att (r : Session) : (s.setSession b r).att = s.att := by simp [State.setSession]
@[simp] theorem setSession_hb (r : Session) : (s.setSession b r).hb = s.hb := by simp [State.setSession]
@[simp] theorem setLampWork_pending (r : LampWork) : (s.setLampWork b r).pending = s.pending := by simp [State.setLampWork]
@[simp] theorem setLampWork_timeBase (r : LampWork) : (s.setLampWork b r).timeBase = s.timeBase := by simp [State.setLampWork]
@[simp] theorem setLampWork_clock (r : LampWork) : (s.setLampWork b r).clock = s.clock := by simp [State.setLampWork]
@[simp] theorem setLampWork_mem (r : LampWork) : (s.setLampWork b r).mem = s.mem := by simp [State.setLampWork]
@[simp] theorem setLampWork_path (r : LampWork) : (s.setLampWork b r).path = s.path := by simp [State.setLampWork]
@[simp] theorem setLampWork_cap (r : LampWork) : (s.setLampWork b r).cap = s.cap := by simp [State.setLampWork]
@[simp] theorem setLampWork_settings (r : LampWork) : (s.setLampWork b r).settings = s.settings := by simp [State.setLampWork]
@[simp] theorem setLampWork_clockSetCopy (r : LampWork) : (s.setLampWork b r).clockSetCopy = s.clockSetCopy := by simp [State.setLampWork]
@[simp] theorem setLampWork_ackCopy (r : LampWork) : (s.setLampWork b r).ackCopy = s.ackCopy := by simp [State.setLampWork]
@[simp] theorem setLampWork_classes (r : LampWork) : (s.setLampWork b r).classes = s.classes := by simp [State.setLampWork]
@[simp] theorem setLampWork_plans (r : LampWork) : (s.setLampWork b r).plans = s.plans := by simp [State.setLampWork]
@[simp] theorem setLampWork_clearanceCopies (r : LampWork) : (s.setLampWork b r).clearanceCopies = s.clearanceCopies := by simp [State.setLampWork]
@[simp] theorem setLampWork_orderSeqs (r : LampWork) : (s.setLampWork b r).orderSeqs = s.orderSeqs := by simp [State.setLampWork]
@[simp] theorem setLampWork_bays (r : LampWork) : (s.setLampWork b r).bays = s.bays := by simp [State.setLampWork]
@[simp] theorem setLampWork_lines (r : LampWork) : (s.setLampWork b r).lines = s.lines := by simp [State.setLampWork]
@[simp] theorem setLampWork_hold (r : LampWork) : (s.setLampWork b r).hold = s.hold := by simp [State.setLampWork]
@[simp] theorem setLampWork_ctrs (r : LampWork) : (s.setLampWork b r).ctrs = s.ctrs := by simp [State.setLampWork]
@[simp] theorem setLampWork_claims (r : LampWork) : (s.setLampWork b r).claims = s.claims := by simp [State.setLampWork]
@[simp] theorem setLampWork_admList (r : LampWork) : (s.setLampWork b r).admList = s.admList := by simp [State.setLampWork]
@[simp] theorem setLampWork_admCounter (r : LampWork) : (s.setLampWork b r).admCounter = s.admCounter := by simp [State.setLampWork]
@[simp] theorem setLampWork_effective (r : LampWork) : (s.setLampWork b r).effective = s.effective := by simp [State.setLampWork]
@[simp] theorem setLampWork_horizon (r : LampWork) : (s.setLampWork b r).horizon = s.horizon := by simp [State.setLampWork]
@[simp] theorem setLampWork_sessions (r : LampWork) : (s.setLampWork b r).sessions = s.sessions := by simp [State.setLampWork]
@[simp] theorem setLampWork_lampActs (r : LampWork) : (s.setLampWork b r).lampActs = s.lampActs := by simp [State.setLampWork]
@[simp] theorem setLampWork_faultActs (r : LampWork) : (s.setLampWork b r).faultActs = s.faultActs := by simp [State.setLampWork]
@[simp] theorem setLampWork_links (r : LampWork) : (s.setLampWork b r).links = s.links := by simp [State.setLampWork]
@[simp] theorem setLampWork_lampChs (r : LampWork) : (s.setLampWork b r).lampChs = s.lampChs := by simp [State.setLampWork]
@[simp] theorem setLampWork_poolList (r : LampWork) : (s.setLampWork b r).poolList = s.poolList := by simp [State.setLampWork]
@[simp] theorem setLampWork_poolCounter (r : LampWork) : (s.setLampWork b r).poolCounter = s.poolCounter := by simp [State.setLampWork]
@[simp] theorem setLampWork_reservation (r : LampWork) : (s.setLampWork b r).reservation = s.reservation := by simp [State.setLampWork]
@[simp] theorem setLampWork_resTimer (r : LampWork) : (s.setLampWork b r).resTimer = s.resTimer := by simp [State.setLampWork]
@[simp] theorem setLampWork_tables (r : LampWork) : (s.setLampWork b r).tables = s.tables := by simp [State.setLampWork]
@[simp] theorem setLampWork_summaries (r : LampWork) : (s.setLampWork b r).summaries = s.summaries := by simp [State.setLampWork]
@[simp] theorem setLampWork_reads (r : LampWork) : (s.setLampWork b r).reads = s.reads := by simp [State.setLampWork]
@[simp] theorem setLampWork_lampWork (r : LampWork) : (s.setLampWork b r).lampWork = vset s.lampWork b r := by simp [State.setLampWork]
@[simp] theorem setLampWork_lampRes (r : LampWork) : (s.setLampWork b r).lampRes = s.lampRes := by simp [State.setLampWork]
@[simp] theorem setLampWork_heads (r : LampWork) : (s.setLampWork b r).heads = s.heads := by simp [State.setLampWork]
@[simp] theorem setLampWork_clr (r : LampWork) : (s.setLampWork b r).clr = s.clr := by simp [State.setLampWork]
@[simp] theorem setLampWork_ev (r : LampWork) : (s.setLampWork b r).ev = s.ev := by simp [State.setLampWork]
@[simp] theorem setLampWork_att (r : LampWork) : (s.setLampWork b r).att = s.att := by simp [State.setLampWork]
@[simp] theorem setLampWork_hb (r : LampWork) : (s.setLampWork b r).hb = s.hb := by simp [State.setLampWork]
@[simp] theorem setLampResult_pending (r : LampResult) : (s.setLampResult b r).pending = s.pending := by simp [State.setLampResult]
@[simp] theorem setLampResult_timeBase (r : LampResult) : (s.setLampResult b r).timeBase = s.timeBase := by simp [State.setLampResult]
@[simp] theorem setLampResult_clock (r : LampResult) : (s.setLampResult b r).clock = s.clock := by simp [State.setLampResult]
@[simp] theorem setLampResult_mem (r : LampResult) : (s.setLampResult b r).mem = s.mem := by simp [State.setLampResult]
@[simp] theorem setLampResult_path (r : LampResult) : (s.setLampResult b r).path = s.path := by simp [State.setLampResult]
@[simp] theorem setLampResult_cap (r : LampResult) : (s.setLampResult b r).cap = s.cap := by simp [State.setLampResult]
@[simp] theorem setLampResult_settings (r : LampResult) : (s.setLampResult b r).settings = s.settings := by simp [State.setLampResult]
@[simp] theorem setLampResult_clockSetCopy (r : LampResult) : (s.setLampResult b r).clockSetCopy = s.clockSetCopy := by simp [State.setLampResult]
@[simp] theorem setLampResult_ackCopy (r : LampResult) : (s.setLampResult b r).ackCopy = s.ackCopy := by simp [State.setLampResult]
@[simp] theorem setLampResult_classes (r : LampResult) : (s.setLampResult b r).classes = s.classes := by simp [State.setLampResult]
@[simp] theorem setLampResult_plans (r : LampResult) : (s.setLampResult b r).plans = s.plans := by simp [State.setLampResult]
@[simp] theorem setLampResult_clearanceCopies (r : LampResult) : (s.setLampResult b r).clearanceCopies = s.clearanceCopies := by simp [State.setLampResult]
@[simp] theorem setLampResult_orderSeqs (r : LampResult) : (s.setLampResult b r).orderSeqs = s.orderSeqs := by simp [State.setLampResult]
@[simp] theorem setLampResult_bays (r : LampResult) : (s.setLampResult b r).bays = s.bays := by simp [State.setLampResult]
@[simp] theorem setLampResult_lines (r : LampResult) : (s.setLampResult b r).lines = s.lines := by simp [State.setLampResult]
@[simp] theorem setLampResult_hold (r : LampResult) : (s.setLampResult b r).hold = s.hold := by simp [State.setLampResult]
@[simp] theorem setLampResult_ctrs (r : LampResult) : (s.setLampResult b r).ctrs = s.ctrs := by simp [State.setLampResult]
@[simp] theorem setLampResult_claims (r : LampResult) : (s.setLampResult b r).claims = s.claims := by simp [State.setLampResult]
@[simp] theorem setLampResult_admList (r : LampResult) : (s.setLampResult b r).admList = s.admList := by simp [State.setLampResult]
@[simp] theorem setLampResult_admCounter (r : LampResult) : (s.setLampResult b r).admCounter = s.admCounter := by simp [State.setLampResult]
@[simp] theorem setLampResult_effective (r : LampResult) : (s.setLampResult b r).effective = s.effective := by simp [State.setLampResult]
@[simp] theorem setLampResult_horizon (r : LampResult) : (s.setLampResult b r).horizon = s.horizon := by simp [State.setLampResult]
@[simp] theorem setLampResult_sessions (r : LampResult) : (s.setLampResult b r).sessions = s.sessions := by simp [State.setLampResult]
@[simp] theorem setLampResult_lampActs (r : LampResult) : (s.setLampResult b r).lampActs = s.lampActs := by simp [State.setLampResult]
@[simp] theorem setLampResult_faultActs (r : LampResult) : (s.setLampResult b r).faultActs = s.faultActs := by simp [State.setLampResult]
@[simp] theorem setLampResult_links (r : LampResult) : (s.setLampResult b r).links = s.links := by simp [State.setLampResult]
@[simp] theorem setLampResult_lampChs (r : LampResult) : (s.setLampResult b r).lampChs = s.lampChs := by simp [State.setLampResult]
@[simp] theorem setLampResult_poolList (r : LampResult) : (s.setLampResult b r).poolList = s.poolList := by simp [State.setLampResult]
@[simp] theorem setLampResult_poolCounter (r : LampResult) : (s.setLampResult b r).poolCounter = s.poolCounter := by simp [State.setLampResult]
@[simp] theorem setLampResult_reservation (r : LampResult) : (s.setLampResult b r).reservation = s.reservation := by simp [State.setLampResult]
@[simp] theorem setLampResult_resTimer (r : LampResult) : (s.setLampResult b r).resTimer = s.resTimer := by simp [State.setLampResult]
@[simp] theorem setLampResult_tables (r : LampResult) : (s.setLampResult b r).tables = s.tables := by simp [State.setLampResult]
@[simp] theorem setLampResult_summaries (r : LampResult) : (s.setLampResult b r).summaries = s.summaries := by simp [State.setLampResult]
@[simp] theorem setLampResult_reads (r : LampResult) : (s.setLampResult b r).reads = s.reads := by simp [State.setLampResult]
@[simp] theorem setLampResult_lampWork (r : LampResult) : (s.setLampResult b r).lampWork = s.lampWork := by simp [State.setLampResult]
@[simp] theorem setLampResult_lampRes (r : LampResult) : (s.setLampResult b r).lampRes = vset s.lampRes b r := by simp [State.setLampResult]
@[simp] theorem setLampResult_heads (r : LampResult) : (s.setLampResult b r).heads = s.heads := by simp [State.setLampResult]
@[simp] theorem setLampResult_clr (r : LampResult) : (s.setLampResult b r).clr = s.clr := by simp [State.setLampResult]
@[simp] theorem setLampResult_ev (r : LampResult) : (s.setLampResult b r).ev = s.ev := by simp [State.setLampResult]
@[simp] theorem setLampResult_att (r : LampResult) : (s.setLampResult b r).att = s.att := by simp [State.setLampResult]
@[simp] theorem setLampResult_hb (r : LampResult) : (s.setLampResult b r).hb = s.hb := by simp [State.setLampResult]
@[simp] theorem setSummary_pending (r : FaultSummary) : (s.setSummary b r).pending = s.pending := by simp [State.setSummary]
@[simp] theorem setSummary_timeBase (r : FaultSummary) : (s.setSummary b r).timeBase = s.timeBase := by simp [State.setSummary]
@[simp] theorem setSummary_clock (r : FaultSummary) : (s.setSummary b r).clock = s.clock := by simp [State.setSummary]
@[simp] theorem setSummary_mem (r : FaultSummary) : (s.setSummary b r).mem = s.mem := by simp [State.setSummary]
@[simp] theorem setSummary_path (r : FaultSummary) : (s.setSummary b r).path = s.path := by simp [State.setSummary]
@[simp] theorem setSummary_cap (r : FaultSummary) : (s.setSummary b r).cap = s.cap := by simp [State.setSummary]
@[simp] theorem setSummary_settings (r : FaultSummary) : (s.setSummary b r).settings = s.settings := by simp [State.setSummary]
@[simp] theorem setSummary_clockSetCopy (r : FaultSummary) : (s.setSummary b r).clockSetCopy = s.clockSetCopy := by simp [State.setSummary]
@[simp] theorem setSummary_ackCopy (r : FaultSummary) : (s.setSummary b r).ackCopy = s.ackCopy := by simp [State.setSummary]
@[simp] theorem setSummary_classes (r : FaultSummary) : (s.setSummary b r).classes = s.classes := by simp [State.setSummary]
@[simp] theorem setSummary_plans (r : FaultSummary) : (s.setSummary b r).plans = s.plans := by simp [State.setSummary]
@[simp] theorem setSummary_clearanceCopies (r : FaultSummary) : (s.setSummary b r).clearanceCopies = s.clearanceCopies := by simp [State.setSummary]
@[simp] theorem setSummary_orderSeqs (r : FaultSummary) : (s.setSummary b r).orderSeqs = s.orderSeqs := by simp [State.setSummary]
@[simp] theorem setSummary_bays (r : FaultSummary) : (s.setSummary b r).bays = s.bays := by simp [State.setSummary]
@[simp] theorem setSummary_lines (r : FaultSummary) : (s.setSummary b r).lines = s.lines := by simp [State.setSummary]
@[simp] theorem setSummary_hold (r : FaultSummary) : (s.setSummary b r).hold = s.hold := by simp [State.setSummary]
@[simp] theorem setSummary_ctrs (r : FaultSummary) : (s.setSummary b r).ctrs = s.ctrs := by simp [State.setSummary]
@[simp] theorem setSummary_claims (r : FaultSummary) : (s.setSummary b r).claims = s.claims := by simp [State.setSummary]
@[simp] theorem setSummary_admList (r : FaultSummary) : (s.setSummary b r).admList = s.admList := by simp [State.setSummary]
@[simp] theorem setSummary_admCounter (r : FaultSummary) : (s.setSummary b r).admCounter = s.admCounter := by simp [State.setSummary]
@[simp] theorem setSummary_effective (r : FaultSummary) : (s.setSummary b r).effective = s.effective := by simp [State.setSummary]
@[simp] theorem setSummary_horizon (r : FaultSummary) : (s.setSummary b r).horizon = s.horizon := by simp [State.setSummary]
@[simp] theorem setSummary_sessions (r : FaultSummary) : (s.setSummary b r).sessions = s.sessions := by simp [State.setSummary]
@[simp] theorem setSummary_lampActs (r : FaultSummary) : (s.setSummary b r).lampActs = s.lampActs := by simp [State.setSummary]
@[simp] theorem setSummary_faultActs (r : FaultSummary) : (s.setSummary b r).faultActs = s.faultActs := by simp [State.setSummary]
@[simp] theorem setSummary_links (r : FaultSummary) : (s.setSummary b r).links = s.links := by simp [State.setSummary]
@[simp] theorem setSummary_lampChs (r : FaultSummary) : (s.setSummary b r).lampChs = s.lampChs := by simp [State.setSummary]
@[simp] theorem setSummary_poolList (r : FaultSummary) : (s.setSummary b r).poolList = s.poolList := by simp [State.setSummary]
@[simp] theorem setSummary_poolCounter (r : FaultSummary) : (s.setSummary b r).poolCounter = s.poolCounter := by simp [State.setSummary]
@[simp] theorem setSummary_reservation (r : FaultSummary) : (s.setSummary b r).reservation = s.reservation := by simp [State.setSummary]
@[simp] theorem setSummary_resTimer (r : FaultSummary) : (s.setSummary b r).resTimer = s.resTimer := by simp [State.setSummary]
@[simp] theorem setSummary_tables (r : FaultSummary) : (s.setSummary b r).tables = s.tables := by simp [State.setSummary]
@[simp] theorem setSummary_summaries (r : FaultSummary) : (s.setSummary b r).summaries = vset s.summaries b r := by simp [State.setSummary]
@[simp] theorem setSummary_reads (r : FaultSummary) : (s.setSummary b r).reads = s.reads := by simp [State.setSummary]
@[simp] theorem setSummary_lampWork (r : FaultSummary) : (s.setSummary b r).lampWork = s.lampWork := by simp [State.setSummary]
@[simp] theorem setSummary_lampRes (r : FaultSummary) : (s.setSummary b r).lampRes = s.lampRes := by simp [State.setSummary]
@[simp] theorem setSummary_heads (r : FaultSummary) : (s.setSummary b r).heads = s.heads := by simp [State.setSummary]
@[simp] theorem setSummary_clr (r : FaultSummary) : (s.setSummary b r).clr = s.clr := by simp [State.setSummary]
@[simp] theorem setSummary_ev (r : FaultSummary) : (s.setSummary b r).ev = s.ev := by simp [State.setSummary]
@[simp] theorem setSummary_att (r : FaultSummary) : (s.setSummary b r).att = s.att := by simp [State.setSummary]
@[simp] theorem setSummary_hb (r : FaultSummary) : (s.setSummary b r).hb = s.hb := by simp [State.setSummary]

@[simp] theorem setRead_pending (r : ReadWork) : (s.setRead b r).pending = s.pending := rfl
@[simp] theorem setRead_timeBase (r : ReadWork) : (s.setRead b r).timeBase = s.timeBase := rfl
@[simp] theorem setRead_clock (r : ReadWork) : (s.setRead b r).clock = s.clock := rfl
@[simp] theorem setRead_mem (r : ReadWork) : (s.setRead b r).mem = s.mem := rfl
@[simp] theorem setRead_path (r : ReadWork) : (s.setRead b r).path = s.path := rfl
@[simp] theorem setRead_cap (r : ReadWork) : (s.setRead b r).cap = s.cap := rfl
@[simp] theorem setRead_settings (r : ReadWork) : (s.setRead b r).settings = s.settings := rfl
@[simp] theorem setRead_clockSetCopy (r : ReadWork) : (s.setRead b r).clockSetCopy = s.clockSetCopy := rfl
@[simp] theorem setRead_ackCopy (r : ReadWork) : (s.setRead b r).ackCopy = s.ackCopy := rfl
@[simp] theorem setRead_classes (r : ReadWork) : (s.setRead b r).classes = s.classes := rfl
@[simp] theorem setRead_plans (r : ReadWork) : (s.setRead b r).plans = s.plans := rfl
@[simp] theorem setRead_clearanceCopies (r : ReadWork) : (s.setRead b r).clearanceCopies = s.clearanceCopies := rfl
@[simp] theorem setRead_orderSeqs (r : ReadWork) : (s.setRead b r).orderSeqs = s.orderSeqs := rfl
@[simp] theorem setRead_bays (r : ReadWork) : (s.setRead b r).bays = s.bays := rfl
@[simp] theorem setRead_lines (r : ReadWork) : (s.setRead b r).lines = s.lines := rfl
@[simp] theorem setRead_hold (r : ReadWork) : (s.setRead b r).hold = s.hold := rfl
@[simp] theorem setRead_ctrs (r : ReadWork) : (s.setRead b r).ctrs = s.ctrs := rfl
@[simp] theorem setRead_claims (r : ReadWork) : (s.setRead b r).claims = s.claims := rfl
@[simp] theorem setRead_admList (r : ReadWork) : (s.setRead b r).admList = s.admList := rfl
@[simp] theorem setRead_admCounter (r : ReadWork) : (s.setRead b r).admCounter = s.admCounter := rfl
@[simp] theorem setRead_effective (r : ReadWork) : (s.setRead b r).effective = s.effective := rfl
@[simp] theorem setRead_horizon (r : ReadWork) : (s.setRead b r).horizon = s.horizon := rfl
@[simp] theorem setRead_sessions (r : ReadWork) : (s.setRead b r).sessions = s.sessions := rfl
@[simp] theorem setRead_lampActs (r : ReadWork) : (s.setRead b r).lampActs = s.lampActs := rfl
@[simp] theorem setRead_faultActs (r : ReadWork) : (s.setRead b r).faultActs = s.faultActs := rfl
@[simp] theorem setRead_links (r : ReadWork) : (s.setRead b r).links = s.links := rfl
@[simp] theorem setRead_lampChs (r : ReadWork) : (s.setRead b r).lampChs = s.lampChs := rfl
@[simp] theorem setRead_poolList (r : ReadWork) : (s.setRead b r).poolList = s.poolList := rfl
@[simp] theorem setRead_poolCounter (r : ReadWork) : (s.setRead b r).poolCounter = s.poolCounter := rfl
@[simp] theorem setRead_reservation (r : ReadWork) : (s.setRead b r).reservation = s.reservation := rfl
@[simp] theorem setRead_resTimer (r : ReadWork) : (s.setRead b r).resTimer = s.resTimer := rfl
@[simp] theorem setRead_tables (r : ReadWork) : (s.setRead b r).tables = s.tables := rfl
@[simp] theorem setRead_summaries (r : ReadWork) : (s.setRead b r).summaries = s.summaries := rfl
@[simp] theorem setRead_reads (r : ReadWork) : (s.setRead b r).reads = vset s.reads b r := rfl
@[simp] theorem setRead_lampWork (r : ReadWork) : (s.setRead b r).lampWork = s.lampWork := rfl
@[simp] theorem setRead_lampRes (r : ReadWork) : (s.setRead b r).lampRes = s.lampRes := rfl
@[simp] theorem setRead_heads (r : ReadWork) : (s.setRead b r).heads = s.heads := rfl
@[simp] theorem setRead_clr (r : ReadWork) : (s.setRead b r).clr = s.clr := rfl
@[simp] theorem setRead_ev (r : ReadWork) : (s.setRead b r).ev = s.ev := rfl
@[simp] theorem setRead_att (r : ReadWork) : (s.setRead b r).att = s.att := rfl
@[simp] theorem setRead_hb (r : ReadWork) : (s.setRead b r).hb = s.hb := rfl
@[simp] theorem setRead_post (r : ReadWork) : (s.setRead b r).post = s.post := rfl
@[simp] theorem setClearance_pending (r : Clearance) : (s.setClearance b r).pending = s.pending := by simp [State.setClearance]
@[simp] theorem setClearance_timeBase (r : Clearance) : (s.setClearance b r).timeBase = s.timeBase := by simp [State.setClearance]
@[simp] theorem setClearance_clock (r : Clearance) : (s.setClearance b r).clock = s.clock := by simp [State.setClearance]
@[simp] theorem setClearance_mem (r : Clearance) : (s.setClearance b r).mem = s.mem := by simp [State.setClearance]
@[simp] theorem setClearance_path (r : Clearance) : (s.setClearance b r).path = s.path := by simp [State.setClearance]
@[simp] theorem setClearance_cap (r : Clearance) : (s.setClearance b r).cap = s.cap := by simp [State.setClearance]
@[simp] theorem setClearance_settings (r : Clearance) : (s.setClearance b r).settings = s.settings := by simp [State.setClearance]
@[simp] theorem setClearance_clockSetCopy (r : Clearance) : (s.setClearance b r).clockSetCopy = s.clockSetCopy := by simp [State.setClearance]
@[simp] theorem setClearance_ackCopy (r : Clearance) : (s.setClearance b r).ackCopy = s.ackCopy := by simp [State.setClearance]
@[simp] theorem setClearance_classes (r : Clearance) : (s.setClearance b r).classes = s.classes := by simp [State.setClearance]
@[simp] theorem setClearance_plans (r : Clearance) : (s.setClearance b r).plans = s.plans := by simp [State.setClearance]
@[simp] theorem setClearance_clearanceCopies (r : Clearance) : (s.setClearance b r).clearanceCopies = s.clearanceCopies := by simp [State.setClearance]
@[simp] theorem setClearance_orderSeqs (r : Clearance) : (s.setClearance b r).orderSeqs = s.orderSeqs := by simp [State.setClearance]
@[simp] theorem setClearance_bays (r : Clearance) : (s.setClearance b r).bays = s.bays := by simp [State.setClearance]
@[simp] theorem setClearance_lines (r : Clearance) : (s.setClearance b r).lines = s.lines := by simp [State.setClearance]
@[simp] theorem setClearance_hold (r : Clearance) : (s.setClearance b r).hold = s.hold := by simp [State.setClearance]
@[simp] theorem setClearance_ctrs (r : Clearance) : (s.setClearance b r).ctrs = s.ctrs := by simp [State.setClearance]
@[simp] theorem setClearance_claims (r : Clearance) : (s.setClearance b r).claims = s.claims := by simp [State.setClearance]
@[simp] theorem setClearance_admList (r : Clearance) : (s.setClearance b r).admList = s.admList := by simp [State.setClearance]
@[simp] theorem setClearance_admCounter (r : Clearance) : (s.setClearance b r).admCounter = s.admCounter := by simp [State.setClearance]
@[simp] theorem setClearance_effective (r : Clearance) : (s.setClearance b r).effective = s.effective := by simp [State.setClearance]
@[simp] theorem setClearance_horizon (r : Clearance) : (s.setClearance b r).horizon = s.horizon := by simp [State.setClearance]
@[simp] theorem setClearance_sessions (r : Clearance) : (s.setClearance b r).sessions = s.sessions := by simp [State.setClearance]
@[simp] theorem setClearance_lampActs (r : Clearance) : (s.setClearance b r).lampActs = s.lampActs := by simp [State.setClearance]
@[simp] theorem setClearance_faultActs (r : Clearance) : (s.setClearance b r).faultActs = s.faultActs := by simp [State.setClearance]
@[simp] theorem setClearance_links (r : Clearance) : (s.setClearance b r).links = s.links := by simp [State.setClearance]
@[simp] theorem setClearance_lampChs (r : Clearance) : (s.setClearance b r).lampChs = s.lampChs := by simp [State.setClearance]
@[simp] theorem setClearance_poolList (r : Clearance) : (s.setClearance b r).poolList = s.poolList := by simp [State.setClearance]
@[simp] theorem setClearance_poolCounter (r : Clearance) : (s.setClearance b r).poolCounter = s.poolCounter := by simp [State.setClearance]
@[simp] theorem setClearance_reservation (r : Clearance) : (s.setClearance b r).reservation = s.reservation := by simp [State.setClearance]
@[simp] theorem setClearance_resTimer (r : Clearance) : (s.setClearance b r).resTimer = s.resTimer := by simp [State.setClearance]
@[simp] theorem setClearance_tables (r : Clearance) : (s.setClearance b r).tables = s.tables := by simp [State.setClearance]
@[simp] theorem setClearance_summaries (r : Clearance) : (s.setClearance b r).summaries = s.summaries := by simp [State.setClearance]
@[simp] theorem setClearance_reads (r : Clearance) : (s.setClearance b r).reads = s.reads := by simp [State.setClearance]
@[simp] theorem setClearance_lampWork (r : Clearance) : (s.setClearance b r).lampWork = s.lampWork := by simp [State.setClearance]
@[simp] theorem setClearance_lampRes (r : Clearance) : (s.setClearance b r).lampRes = s.lampRes := by simp [State.setClearance]
@[simp] theorem setClearance_heads (r : Clearance) : (s.setClearance b r).heads = s.heads := by simp [State.setClearance]
@[simp] theorem setClearance_clr (r : Clearance) : (s.setClearance b r).clr = vset s.clr b r := by simp [State.setClearance]
@[simp] theorem setClearance_ev (r : Clearance) : (s.setClearance b r).ev = s.ev := by simp [State.setClearance]
@[simp] theorem setClearance_att (r : Clearance) : (s.setClearance b r).att = s.att := by simp [State.setClearance]
@[simp] theorem setClearance_hb (r : Clearance) : (s.setClearance b r).hb = s.hb := by simp [State.setClearance]
@[simp] theorem setLink_pending (ch : LinkIx) (r : LinkChannel) : (s.setLink ch r).pending = s.pending := by simp [State.setLink]
@[simp] theorem setLink_timeBase (ch : LinkIx) (r : LinkChannel) : (s.setLink ch r).timeBase = s.timeBase := by simp [State.setLink]
@[simp] theorem setLink_clock (ch : LinkIx) (r : LinkChannel) : (s.setLink ch r).clock = s.clock := by simp [State.setLink]
@[simp] theorem setLink_mem (ch : LinkIx) (r : LinkChannel) : (s.setLink ch r).mem = s.mem := by simp [State.setLink]
@[simp] theorem setLink_path (ch : LinkIx) (r : LinkChannel) : (s.setLink ch r).path = s.path := by simp [State.setLink]
@[simp] theorem setLink_cap (ch : LinkIx) (r : LinkChannel) : (s.setLink ch r).cap = s.cap := by simp [State.setLink]
@[simp] theorem setLink_settings (ch : LinkIx) (r : LinkChannel) : (s.setLink ch r).settings = s.settings := by simp [State.setLink]
@[simp] theorem setLink_clockSetCopy (ch : LinkIx) (r : LinkChannel) : (s.setLink ch r).clockSetCopy = s.clockSetCopy := by simp [State.setLink]
@[simp] theorem setLink_ackCopy (ch : LinkIx) (r : LinkChannel) : (s.setLink ch r).ackCopy = s.ackCopy := by simp [State.setLink]
@[simp] theorem setLink_classes (ch : LinkIx) (r : LinkChannel) : (s.setLink ch r).classes = s.classes := by simp [State.setLink]
@[simp] theorem setLink_plans (ch : LinkIx) (r : LinkChannel) : (s.setLink ch r).plans = s.plans := by simp [State.setLink]
@[simp] theorem setLink_clearanceCopies (ch : LinkIx) (r : LinkChannel) : (s.setLink ch r).clearanceCopies = s.clearanceCopies := by simp [State.setLink]
@[simp] theorem setLink_orderSeqs (ch : LinkIx) (r : LinkChannel) : (s.setLink ch r).orderSeqs = s.orderSeqs := by simp [State.setLink]
@[simp] theorem setLink_bays (ch : LinkIx) (r : LinkChannel) : (s.setLink ch r).bays = s.bays := by simp [State.setLink]
@[simp] theorem setLink_lines (ch : LinkIx) (r : LinkChannel) : (s.setLink ch r).lines = s.lines := by simp [State.setLink]
@[simp] theorem setLink_hold (ch : LinkIx) (r : LinkChannel) : (s.setLink ch r).hold = s.hold := by simp [State.setLink]
@[simp] theorem setLink_ctrs (ch : LinkIx) (r : LinkChannel) : (s.setLink ch r).ctrs = s.ctrs := by simp [State.setLink]
@[simp] theorem setLink_claims (ch : LinkIx) (r : LinkChannel) : (s.setLink ch r).claims = s.claims := by simp [State.setLink]
@[simp] theorem setLink_admList (ch : LinkIx) (r : LinkChannel) : (s.setLink ch r).admList = s.admList := by simp [State.setLink]
@[simp] theorem setLink_admCounter (ch : LinkIx) (r : LinkChannel) : (s.setLink ch r).admCounter = s.admCounter := by simp [State.setLink]
@[simp] theorem setLink_effective (ch : LinkIx) (r : LinkChannel) : (s.setLink ch r).effective = s.effective := by simp [State.setLink]
@[simp] theorem setLink_horizon (ch : LinkIx) (r : LinkChannel) : (s.setLink ch r).horizon = s.horizon := by simp [State.setLink]
@[simp] theorem setLink_sessions (ch : LinkIx) (r : LinkChannel) : (s.setLink ch r).sessions = s.sessions := by simp [State.setLink]
@[simp] theorem setLink_lampActs (ch : LinkIx) (r : LinkChannel) : (s.setLink ch r).lampActs = s.lampActs := by simp [State.setLink]
@[simp] theorem setLink_faultActs (ch : LinkIx) (r : LinkChannel) : (s.setLink ch r).faultActs = s.faultActs := by simp [State.setLink]
@[simp] theorem setLink_links (ch : LinkIx) (r : LinkChannel) : (s.setLink ch r).links = vset s.links ch r := by simp [State.setLink]
@[simp] theorem setLink_lampChs (ch : LinkIx) (r : LinkChannel) : (s.setLink ch r).lampChs = s.lampChs := by simp [State.setLink]
@[simp] theorem setLink_poolList (ch : LinkIx) (r : LinkChannel) : (s.setLink ch r).poolList = s.poolList := by simp [State.setLink]
@[simp] theorem setLink_poolCounter (ch : LinkIx) (r : LinkChannel) : (s.setLink ch r).poolCounter = s.poolCounter := by simp [State.setLink]
@[simp] theorem setLink_reservation (ch : LinkIx) (r : LinkChannel) : (s.setLink ch r).reservation = s.reservation := by simp [State.setLink]
@[simp] theorem setLink_resTimer (ch : LinkIx) (r : LinkChannel) : (s.setLink ch r).resTimer = s.resTimer := by simp [State.setLink]
@[simp] theorem setLink_tables (ch : LinkIx) (r : LinkChannel) : (s.setLink ch r).tables = s.tables := by simp [State.setLink]
@[simp] theorem setLink_summaries (ch : LinkIx) (r : LinkChannel) : (s.setLink ch r).summaries = s.summaries := by simp [State.setLink]
@[simp] theorem setLink_reads (ch : LinkIx) (r : LinkChannel) : (s.setLink ch r).reads = s.reads := by simp [State.setLink]
@[simp] theorem setLink_lampWork (ch : LinkIx) (r : LinkChannel) : (s.setLink ch r).lampWork = s.lampWork := by simp [State.setLink]
@[simp] theorem setLink_lampRes (ch : LinkIx) (r : LinkChannel) : (s.setLink ch r).lampRes = s.lampRes := by simp [State.setLink]
@[simp] theorem setLink_heads (ch : LinkIx) (r : LinkChannel) : (s.setLink ch r).heads = s.heads := by simp [State.setLink]
@[simp] theorem setLink_clr (ch : LinkIx) (r : LinkChannel) : (s.setLink ch r).clr = s.clr := by simp [State.setLink]
@[simp] theorem setLink_ev (ch : LinkIx) (r : LinkChannel) : (s.setLink ch r).ev = s.ev := by simp [State.setLink]
@[simp] theorem setLink_att (ch : LinkIx) (r : LinkChannel) : (s.setLink ch r).att = s.att := by simp [State.setLink]
@[simp] theorem setLink_hb (ch : LinkIx) (r : LinkChannel) : (s.setLink ch r).hb = s.hb := by simp [State.setLink]
@[simp] theorem setLampCh_pending (ch : LampIx) (r : LampChannel) : (s.setLampCh ch r).pending = s.pending := by simp [State.setLampCh]
@[simp] theorem setLampCh_timeBase (ch : LampIx) (r : LampChannel) : (s.setLampCh ch r).timeBase = s.timeBase := by simp [State.setLampCh]
@[simp] theorem setLampCh_clock (ch : LampIx) (r : LampChannel) : (s.setLampCh ch r).clock = s.clock := by simp [State.setLampCh]
@[simp] theorem setLampCh_mem (ch : LampIx) (r : LampChannel) : (s.setLampCh ch r).mem = s.mem := by simp [State.setLampCh]
@[simp] theorem setLampCh_path (ch : LampIx) (r : LampChannel) : (s.setLampCh ch r).path = s.path := by simp [State.setLampCh]
@[simp] theorem setLampCh_cap (ch : LampIx) (r : LampChannel) : (s.setLampCh ch r).cap = s.cap := by simp [State.setLampCh]
@[simp] theorem setLampCh_settings (ch : LampIx) (r : LampChannel) : (s.setLampCh ch r).settings = s.settings := by simp [State.setLampCh]
@[simp] theorem setLampCh_clockSetCopy (ch : LampIx) (r : LampChannel) : (s.setLampCh ch r).clockSetCopy = s.clockSetCopy := by simp [State.setLampCh]
@[simp] theorem setLampCh_ackCopy (ch : LampIx) (r : LampChannel) : (s.setLampCh ch r).ackCopy = s.ackCopy := by simp [State.setLampCh]
@[simp] theorem setLampCh_classes (ch : LampIx) (r : LampChannel) : (s.setLampCh ch r).classes = s.classes := by simp [State.setLampCh]
@[simp] theorem setLampCh_plans (ch : LampIx) (r : LampChannel) : (s.setLampCh ch r).plans = s.plans := by simp [State.setLampCh]
@[simp] theorem setLampCh_clearanceCopies (ch : LampIx) (r : LampChannel) : (s.setLampCh ch r).clearanceCopies = s.clearanceCopies := by simp [State.setLampCh]
@[simp] theorem setLampCh_orderSeqs (ch : LampIx) (r : LampChannel) : (s.setLampCh ch r).orderSeqs = s.orderSeqs := by simp [State.setLampCh]
@[simp] theorem setLampCh_bays (ch : LampIx) (r : LampChannel) : (s.setLampCh ch r).bays = s.bays := by simp [State.setLampCh]
@[simp] theorem setLampCh_lines (ch : LampIx) (r : LampChannel) : (s.setLampCh ch r).lines = s.lines := by simp [State.setLampCh]
@[simp] theorem setLampCh_hold (ch : LampIx) (r : LampChannel) : (s.setLampCh ch r).hold = s.hold := by simp [State.setLampCh]
@[simp] theorem setLampCh_ctrs (ch : LampIx) (r : LampChannel) : (s.setLampCh ch r).ctrs = s.ctrs := by simp [State.setLampCh]
@[simp] theorem setLampCh_claims (ch : LampIx) (r : LampChannel) : (s.setLampCh ch r).claims = s.claims := by simp [State.setLampCh]
@[simp] theorem setLampCh_admList (ch : LampIx) (r : LampChannel) : (s.setLampCh ch r).admList = s.admList := by simp [State.setLampCh]
@[simp] theorem setLampCh_admCounter (ch : LampIx) (r : LampChannel) : (s.setLampCh ch r).admCounter = s.admCounter := by simp [State.setLampCh]
@[simp] theorem setLampCh_effective (ch : LampIx) (r : LampChannel) : (s.setLampCh ch r).effective = s.effective := by simp [State.setLampCh]
@[simp] theorem setLampCh_horizon (ch : LampIx) (r : LampChannel) : (s.setLampCh ch r).horizon = s.horizon := by simp [State.setLampCh]
@[simp] theorem setLampCh_sessions (ch : LampIx) (r : LampChannel) : (s.setLampCh ch r).sessions = s.sessions := by simp [State.setLampCh]
@[simp] theorem setLampCh_lampActs (ch : LampIx) (r : LampChannel) : (s.setLampCh ch r).lampActs = s.lampActs := by simp [State.setLampCh]
@[simp] theorem setLampCh_faultActs (ch : LampIx) (r : LampChannel) : (s.setLampCh ch r).faultActs = s.faultActs := by simp [State.setLampCh]
@[simp] theorem setLampCh_links (ch : LampIx) (r : LampChannel) : (s.setLampCh ch r).links = s.links := by simp [State.setLampCh]
@[simp] theorem setLampCh_lampChs (ch : LampIx) (r : LampChannel) : (s.setLampCh ch r).lampChs = vset s.lampChs ch r := by simp [State.setLampCh]
@[simp] theorem setLampCh_poolList (ch : LampIx) (r : LampChannel) : (s.setLampCh ch r).poolList = s.poolList := by simp [State.setLampCh]
@[simp] theorem setLampCh_poolCounter (ch : LampIx) (r : LampChannel) : (s.setLampCh ch r).poolCounter = s.poolCounter := by simp [State.setLampCh]
@[simp] theorem setLampCh_reservation (ch : LampIx) (r : LampChannel) : (s.setLampCh ch r).reservation = s.reservation := by simp [State.setLampCh]
@[simp] theorem setLampCh_resTimer (ch : LampIx) (r : LampChannel) : (s.setLampCh ch r).resTimer = s.resTimer := by simp [State.setLampCh]
@[simp] theorem setLampCh_tables (ch : LampIx) (r : LampChannel) : (s.setLampCh ch r).tables = s.tables := by simp [State.setLampCh]
@[simp] theorem setLampCh_summaries (ch : LampIx) (r : LampChannel) : (s.setLampCh ch r).summaries = s.summaries := by simp [State.setLampCh]
@[simp] theorem setLampCh_reads (ch : LampIx) (r : LampChannel) : (s.setLampCh ch r).reads = s.reads := by simp [State.setLampCh]
@[simp] theorem setLampCh_lampWork (ch : LampIx) (r : LampChannel) : (s.setLampCh ch r).lampWork = s.lampWork := by simp [State.setLampCh]
@[simp] theorem setLampCh_lampRes (ch : LampIx) (r : LampChannel) : (s.setLampCh ch r).lampRes = s.lampRes := by simp [State.setLampCh]
@[simp] theorem setLampCh_heads (ch : LampIx) (r : LampChannel) : (s.setLampCh ch r).heads = s.heads := by simp [State.setLampCh]
@[simp] theorem setLampCh_clr (ch : LampIx) (r : LampChannel) : (s.setLampCh ch r).clr = s.clr := by simp [State.setLampCh]
@[simp] theorem setLampCh_ev (ch : LampIx) (r : LampChannel) : (s.setLampCh ch r).ev = s.ev := by simp [State.setLampCh]
@[simp] theorem setLampCh_att (ch : LampIx) (r : LampChannel) : (s.setLampCh ch r).att = s.att := by simp [State.setLampCh]
@[simp] theorem setLampCh_hb (ch : LampIx) (r : LampChannel) : (s.setLampCh ch r).hb = s.hb := by simp [State.setLampCh]
@[simp] theorem setAct_pending (a : Activity) (r : ActRec) : (s.setAct b a r).pending = s.pending := by cases a <;> simp [State.setAct]
@[simp] theorem setAct_timeBase (a : Activity) (r : ActRec) : (s.setAct b a r).timeBase = s.timeBase := by cases a <;> simp [State.setAct]
@[simp] theorem setAct_clock (a : Activity) (r : ActRec) : (s.setAct b a r).clock = s.clock := by cases a <;> simp [State.setAct]
@[simp] theorem setAct_mem (a : Activity) (r : ActRec) : (s.setAct b a r).mem = s.mem := by cases a <;> simp [State.setAct]
@[simp] theorem setAct_path (a : Activity) (r : ActRec) : (s.setAct b a r).path = s.path := by cases a <;> simp [State.setAct]
@[simp] theorem setAct_cap (a : Activity) (r : ActRec) : (s.setAct b a r).cap = s.cap := by cases a <;> simp [State.setAct]
@[simp] theorem setAct_settings (a : Activity) (r : ActRec) : (s.setAct b a r).settings = s.settings := by cases a <;> simp [State.setAct]
@[simp] theorem setAct_clockSetCopy (a : Activity) (r : ActRec) : (s.setAct b a r).clockSetCopy = s.clockSetCopy := by cases a <;> simp [State.setAct]
@[simp] theorem setAct_ackCopy (a : Activity) (r : ActRec) : (s.setAct b a r).ackCopy = s.ackCopy := by cases a <;> simp [State.setAct]
@[simp] theorem setAct_classes (a : Activity) (r : ActRec) : (s.setAct b a r).classes = s.classes := by cases a <;> simp [State.setAct]
@[simp] theorem setAct_plans (a : Activity) (r : ActRec) : (s.setAct b a r).plans = s.plans := by cases a <;> simp [State.setAct]
@[simp] theorem setAct_clearanceCopies (a : Activity) (r : ActRec) : (s.setAct b a r).clearanceCopies = s.clearanceCopies := by cases a <;> simp [State.setAct]
@[simp] theorem setAct_orderSeqs (a : Activity) (r : ActRec) : (s.setAct b a r).orderSeqs = s.orderSeqs := by cases a <;> simp [State.setAct]
@[simp] theorem setAct_bays (a : Activity) (r : ActRec) : (s.setAct b a r).bays = s.bays := by cases a <;> simp [State.setAct]
@[simp] theorem setAct_lines (a : Activity) (r : ActRec) : (s.setAct b a r).lines = s.lines := by cases a <;> simp [State.setAct]
@[simp] theorem setAct_hold (a : Activity) (r : ActRec) : (s.setAct b a r).hold = s.hold := by cases a <;> simp [State.setAct]
@[simp] theorem setAct_ctrs (a : Activity) (r : ActRec) : (s.setAct b a r).ctrs = s.ctrs := by cases a <;> simp [State.setAct]
@[simp] theorem setAct_claims (a : Activity) (r : ActRec) : (s.setAct b a r).claims = s.claims := by cases a <;> simp [State.setAct]
@[simp] theorem setAct_admList (a : Activity) (r : ActRec) : (s.setAct b a r).admList = s.admList := by cases a <;> simp [State.setAct]
@[simp] theorem setAct_admCounter (a : Activity) (r : ActRec) : (s.setAct b a r).admCounter = s.admCounter := by cases a <;> simp [State.setAct]
@[simp] theorem setAct_effective (a : Activity) (r : ActRec) : (s.setAct b a r).effective = s.effective := by cases a <;> simp [State.setAct]
@[simp] theorem setAct_horizon (a : Activity) (r : ActRec) : (s.setAct b a r).horizon = s.horizon := by cases a <;> simp [State.setAct]
@[simp] theorem setAct_sessions (a : Activity) (r : ActRec) : (s.setAct b a r).sessions = s.sessions := by cases a <;> simp [State.setAct]
@[simp] theorem setAct_links (a : Activity) (r : ActRec) : (s.setAct b a r).links = s.links := by cases a <;> simp [State.setAct]
@[simp] theorem setAct_lampChs (a : Activity) (r : ActRec) : (s.setAct b a r).lampChs = s.lampChs := by cases a <;> simp [State.setAct]
@[simp] theorem setAct_poolList (a : Activity) (r : ActRec) : (s.setAct b a r).poolList = s.poolList := by cases a <;> simp [State.setAct]
@[simp] theorem setAct_poolCounter (a : Activity) (r : ActRec) : (s.setAct b a r).poolCounter = s.poolCounter := by cases a <;> simp [State.setAct]
@[simp] theorem setAct_reservation (a : Activity) (r : ActRec) : (s.setAct b a r).reservation = s.reservation := by cases a <;> simp [State.setAct]
@[simp] theorem setAct_resTimer (a : Activity) (r : ActRec) : (s.setAct b a r).resTimer = s.resTimer := by cases a <;> simp [State.setAct]
@[simp] theorem setAct_tables (a : Activity) (r : ActRec) : (s.setAct b a r).tables = s.tables := by cases a <;> simp [State.setAct]
@[simp] theorem setAct_summaries (a : Activity) (r : ActRec) : (s.setAct b a r).summaries = s.summaries := by cases a <;> simp [State.setAct]
@[simp] theorem setAct_reads (a : Activity) (r : ActRec) : (s.setAct b a r).reads = s.reads := by cases a <;> simp [State.setAct]
@[simp] theorem setAct_lampWork (a : Activity) (r : ActRec) : (s.setAct b a r).lampWork = s.lampWork := by cases a <;> simp [State.setAct]
@[simp] theorem setAct_lampRes (a : Activity) (r : ActRec) : (s.setAct b a r).lampRes = s.lampRes := by cases a <;> simp [State.setAct]
@[simp] theorem setAct_heads (a : Activity) (r : ActRec) : (s.setAct b a r).heads = s.heads := by cases a <;> simp [State.setAct]
@[simp] theorem setAct_clr (a : Activity) (r : ActRec) : (s.setAct b a r).clr = s.clr := by cases a <;> simp [State.setAct]
@[simp] theorem setAct_ev (a : Activity) (r : ActRec) : (s.setAct b a r).ev = s.ev := by cases a <;> simp [State.setAct]
@[simp] theorem setAct_att (a : Activity) (r : ActRec) : (s.setAct b a r).att = s.att := by cases a <;> simp [State.setAct]
@[simp] theorem setAct_hb (a : Activity) (r : ActRec) : (s.setAct b a r).hb = s.hb := by cases a <;> simp [State.setAct]
@[simp] theorem setAct_act (a a' : Activity) (r : ActRec) : (s.setAct b a r).act b' a' = if b = b' ∧ a = a' then r else s.act b' a' := by
  cases a <;> cases a' <;> simp [State.setAct, State.act]


/-! ### Events -/

@[simp] theorem raise_pending (k : Kind) (o : Option Bay) (d n : Nat) : (s.raise k o d n).pending = s.pending := by unfold State.raise; split <;> rfl
@[simp] theorem raise_timeBase (k : Kind) (o : Option Bay) (d n : Nat) : (s.raise k o d n).timeBase = s.timeBase := by unfold State.raise; split <;> rfl
@[simp] theorem raise_clock (k : Kind) (o : Option Bay) (d n : Nat) : (s.raise k o d n).clock = s.clock := by unfold State.raise; split <;> rfl
@[simp] theorem raise_mem (k : Kind) (o : Option Bay) (d n : Nat) : (s.raise k o d n).mem = s.mem := by unfold State.raise; split <;> rfl
@[simp] theorem raise_path (k : Kind) (o : Option Bay) (d n : Nat) : (s.raise k o d n).path = s.path := by unfold State.raise; split <;> rfl
@[simp] theorem raise_post (k : Kind) (o : Option Bay) (d n : Nat) : (s.raise k o d n).post = s.post := by unfold State.raise; split <;> rfl
@[simp] theorem raise_cap (k : Kind) (o : Option Bay) (d n : Nat) : (s.raise k o d n).cap = s.cap := by unfold State.raise; split <;> rfl
@[simp] theorem raise_settings (k : Kind) (o : Option Bay) (d n : Nat) : (s.raise k o d n).settings = s.settings := by unfold State.raise; split <;> rfl
@[simp] theorem raise_clockSetCopy (k : Kind) (o : Option Bay) (d n : Nat) : (s.raise k o d n).clockSetCopy = s.clockSetCopy := by unfold State.raise; split <;> rfl
@[simp] theorem raise_ackCopy (k : Kind) (o : Option Bay) (d n : Nat) : (s.raise k o d n).ackCopy = s.ackCopy := by unfold State.raise; split <;> rfl
@[simp] theorem raise_classes (k : Kind) (o : Option Bay) (d n : Nat) : (s.raise k o d n).classes = s.classes := by unfold State.raise; split <;> rfl
@[simp] theorem raise_plans (k : Kind) (o : Option Bay) (d n : Nat) : (s.raise k o d n).plans = s.plans := by unfold State.raise; split <;> rfl
@[simp] theorem raise_clearanceCopies (k : Kind) (o : Option Bay) (d n : Nat) : (s.raise k o d n).clearanceCopies = s.clearanceCopies := by unfold State.raise; split <;> rfl
@[simp] theorem raise_orderSeqs (k : Kind) (o : Option Bay) (d n : Nat) : (s.raise k o d n).orderSeqs = s.orderSeqs := by unfold State.raise; split <;> rfl
@[simp] theorem raise_bays (k : Kind) (o : Option Bay) (d n : Nat) : (s.raise k o d n).bays = s.bays := by unfold State.raise; split <;> rfl
@[simp] theorem raise_lines (k : Kind) (o : Option Bay) (d n : Nat) : (s.raise k o d n).lines = s.lines := by unfold State.raise; split <;> rfl
@[simp] theorem raise_hold (k : Kind) (o : Option Bay) (d n : Nat) : (s.raise k o d n).hold = s.hold := by unfold State.raise; split <;> rfl
@[simp] theorem raise_ctrs (k : Kind) (o : Option Bay) (d n : Nat) : (s.raise k o d n).ctrs = s.ctrs := by unfold State.raise; split <;> rfl
@[simp] theorem raise_claims (k : Kind) (o : Option Bay) (d n : Nat) : (s.raise k o d n).claims = s.claims := by unfold State.raise; split <;> rfl
@[simp] theorem raise_admList (k : Kind) (o : Option Bay) (d n : Nat) : (s.raise k o d n).admList = s.admList := by unfold State.raise; split <;> rfl
@[simp] theorem raise_admCounter (k : Kind) (o : Option Bay) (d n : Nat) : (s.raise k o d n).admCounter = s.admCounter := by unfold State.raise; split <;> rfl
@[simp] theorem raise_effective (k : Kind) (o : Option Bay) (d n : Nat) : (s.raise k o d n).effective = s.effective := by unfold State.raise; split <;> rfl
@[simp] theorem raise_horizon (k : Kind) (o : Option Bay) (d n : Nat) : (s.raise k o d n).horizon = s.horizon := by unfold State.raise; split <;> rfl
@[simp] theorem raise_sessions (k : Kind) (o : Option Bay) (d n : Nat) : (s.raise k o d n).sessions = s.sessions := by unfold State.raise; split <;> rfl
@[simp] theorem raise_lampActs (k : Kind) (o : Option Bay) (d n : Nat) : (s.raise k o d n).lampActs = s.lampActs := by unfold State.raise; split <;> rfl
@[simp] theorem raise_faultActs (k : Kind) (o : Option Bay) (d n : Nat) : (s.raise k o d n).faultActs = s.faultActs := by unfold State.raise; split <;> rfl
@[simp] theorem raise_links (k : Kind) (o : Option Bay) (d n : Nat) : (s.raise k o d n).links = s.links := by unfold State.raise; split <;> rfl
@[simp] theorem raise_lampChs (k : Kind) (o : Option Bay) (d n : Nat) : (s.raise k o d n).lampChs = s.lampChs := by unfold State.raise; split <;> rfl
@[simp] theorem raise_poolList (k : Kind) (o : Option Bay) (d n : Nat) : (s.raise k o d n).poolList = s.poolList := by unfold State.raise; split <;> rfl
@[simp] theorem raise_poolCounter (k : Kind) (o : Option Bay) (d n : Nat) : (s.raise k o d n).poolCounter = s.poolCounter := by unfold State.raise; split <;> rfl
@[simp] theorem raise_reservation (k : Kind) (o : Option Bay) (d n : Nat) : (s.raise k o d n).reservation = s.reservation := by unfold State.raise; split <;> rfl
@[simp] theorem raise_resTimer (k : Kind) (o : Option Bay) (d n : Nat) : (s.raise k o d n).resTimer = s.resTimer := by unfold State.raise; split <;> rfl
@[simp] theorem raise_tables (k : Kind) (o : Option Bay) (d n : Nat) : (s.raise k o d n).tables = s.tables := by unfold State.raise; split <;> rfl
@[simp] theorem raise_summaries (k : Kind) (o : Option Bay) (d n : Nat) : (s.raise k o d n).summaries = s.summaries := by unfold State.raise; split <;> rfl
@[simp] theorem raise_reads (k : Kind) (o : Option Bay) (d n : Nat) : (s.raise k o d n).reads = s.reads := by unfold State.raise; split <;> rfl
@[simp] theorem raise_lampWork (k : Kind) (o : Option Bay) (d n : Nat) : (s.raise k o d n).lampWork = s.lampWork := by unfold State.raise; split <;> rfl
@[simp] theorem raise_lampRes (k : Kind) (o : Option Bay) (d n : Nat) : (s.raise k o d n).lampRes = s.lampRes := by unfold State.raise; split <;> rfl
@[simp] theorem raise_heads (k : Kind) (o : Option Bay) (d n : Nat) : (s.raise k o d n).heads = s.heads := by unfold State.raise; split <;> rfl
@[simp] theorem raise_clr (k : Kind) (o : Option Bay) (d n : Nat) : (s.raise k o d n).clr = s.clr := by unfold State.raise; split <;> rfl
@[simp] theorem raise_hb (k : Kind) (o : Option Bay) (d n : Nat) : (s.raise k o d n).hb = s.hb := by unfold State.raise; split <;> rfl
@[simp] theorem raise_agenda (k : Kind) (o : Option Bay) (d n : Nat) : (s.raise k o d n).agenda = s.agenda := by unfold State.raise; split <;> rfl

theorem raise_ev (k : Kind) (o : Option Bay) (d n : Nat) (h : s.path.reload = none) :
    (s.raise k o d n).ev = s.ev.add (s.eventRec k o d n) := by simp [State.raise, h]

theorem raise_att (k : Kind) (o : Option Bay) (d n : Nat) (h : s.path.reload = none) :
    (s.raise k o d n).att = s.att.latch k.cause (s.ev.stamp + 1) := by simp [State.raise, h]

/-! ### Time -/

@[simp] theorem advanceTo_pending (t : Nat) : (s.advanceTo t).pending = s.pending := rfl
@[simp] theorem advanceTo_clock (t : Nat) : (s.advanceTo t).clock = s.clock := rfl
@[simp] theorem advanceTo_mem (t : Nat) : (s.advanceTo t).mem = s.mem := rfl
@[simp] theorem advanceTo_path (t : Nat) : (s.advanceTo t).path = s.path := rfl
@[simp] theorem advanceTo_post (t : Nat) : (s.advanceTo t).post = s.post := rfl
@[simp] theorem advanceTo_cap (t : Nat) : (s.advanceTo t).cap = s.cap := rfl
@[simp] theorem advanceTo_settings (t : Nat) : (s.advanceTo t).settings = s.settings := rfl
@[simp] theorem advanceTo_clockSetCopy (t : Nat) : (s.advanceTo t).clockSetCopy = s.clockSetCopy := rfl
@[simp] theorem advanceTo_ackCopy (t : Nat) : (s.advanceTo t).ackCopy = s.ackCopy := rfl
@[simp] theorem advanceTo_classes (t : Nat) : (s.advanceTo t).classes = s.classes := rfl
@[simp] theorem advanceTo_plans (t : Nat) : (s.advanceTo t).plans = s.plans := rfl
@[simp] theorem advanceTo_clearanceCopies (t : Nat) : (s.advanceTo t).clearanceCopies = s.clearanceCopies := rfl
@[simp] theorem advanceTo_orderSeqs (t : Nat) : (s.advanceTo t).orderSeqs = s.orderSeqs := rfl
@[simp] theorem advanceTo_bays (t : Nat) : (s.advanceTo t).bays = s.bays := rfl
@[simp] theorem advanceTo_lines (t : Nat) : (s.advanceTo t).lines = s.lines := rfl
@[simp] theorem advanceTo_hold (t : Nat) : (s.advanceTo t).hold = s.hold := rfl
@[simp] theorem advanceTo_ctrs (t : Nat) : (s.advanceTo t).ctrs = s.ctrs := rfl
@[simp] theorem advanceTo_claims (t : Nat) : (s.advanceTo t).claims = s.claims := rfl
@[simp] theorem advanceTo_admList (t : Nat) : (s.advanceTo t).admList = s.admList := rfl
@[simp] theorem advanceTo_admCounter (t : Nat) : (s.advanceTo t).admCounter = s.admCounter := rfl
@[simp] theorem advanceTo_effective (t : Nat) : (s.advanceTo t).effective = s.effective := rfl
@[simp] theorem advanceTo_horizon (t : Nat) : (s.advanceTo t).horizon = s.horizon := rfl
@[simp] theorem advanceTo_sessions (t : Nat) : (s.advanceTo t).sessions = s.sessions := rfl
@[simp] theorem advanceTo_lampActs (t : Nat) : (s.advanceTo t).lampActs = s.lampActs := rfl
@[simp] theorem advanceTo_faultActs (t : Nat) : (s.advanceTo t).faultActs = s.faultActs := rfl
@[simp] theorem advanceTo_links (t : Nat) : (s.advanceTo t).links = s.links := rfl
@[simp] theorem advanceTo_lampChs (t : Nat) : (s.advanceTo t).lampChs = s.lampChs := rfl
@[simp] theorem advanceTo_poolList (t : Nat) : (s.advanceTo t).poolList = s.poolList := rfl
@[simp] theorem advanceTo_poolCounter (t : Nat) : (s.advanceTo t).poolCounter = s.poolCounter := rfl
@[simp] theorem advanceTo_reservation (t : Nat) : (s.advanceTo t).reservation = s.reservation := rfl
@[simp] theorem advanceTo_resTimer (t : Nat) : (s.advanceTo t).resTimer = s.resTimer := rfl
@[simp] theorem advanceTo_tables (t : Nat) : (s.advanceTo t).tables = s.tables := rfl
@[simp] theorem advanceTo_summaries (t : Nat) : (s.advanceTo t).summaries = s.summaries := rfl
@[simp] theorem advanceTo_reads (t : Nat) : (s.advanceTo t).reads = s.reads := rfl
@[simp] theorem advanceTo_lampWork (t : Nat) : (s.advanceTo t).lampWork = s.lampWork := rfl
@[simp] theorem advanceTo_lampRes (t : Nat) : (s.advanceTo t).lampRes = s.lampRes := rfl
@[simp] theorem advanceTo_heads (t : Nat) : (s.advanceTo t).heads = s.heads := rfl
@[simp] theorem advanceTo_clr (t : Nat) : (s.advanceTo t).clr = s.clr := rfl
@[simp] theorem advanceTo_ev (t : Nat) : (s.advanceTo t).ev = s.ev := rfl
@[simp] theorem advanceTo_att (t : Nat) : (s.advanceTo t).att = s.att := rfl
@[simp] theorem advanceTo_hb (t : Nat) : (s.advanceTo t).hb = s.hb := rfl
@[simp] theorem advanceTo_agenda (t : Nat) : (s.advanceTo t).agenda = s.agenda := rfl
@[simp] theorem advanceTo_timeBase (t : Nat) : (s.advanceTo t).timeBase = max s.timeBase t := rfl
@[simp] theorem answer_pending (p : Port) : (s.answer p).pending = s.pending := rfl
@[simp] theorem answer_timeBase (p : Port) : (s.answer p).timeBase = s.timeBase := rfl
@[simp] theorem answer_clock (p : Port) : (s.answer p).clock = s.clock := rfl
@[simp] theorem answer_mem (p : Port) : (s.answer p).mem = s.mem := rfl
@[simp] theorem answer_post (p : Port) : (s.answer p).post = s.post := rfl
@[simp] theorem answer_cap (p : Port) : (s.answer p).cap = s.cap := rfl
@[simp] theorem answer_settings (p : Port) : (s.answer p).settings = s.settings := rfl
@[simp] theorem answer_clockSetCopy (p : Port) : (s.answer p).clockSetCopy = s.clockSetCopy := rfl
@[simp] theorem answer_ackCopy (p : Port) : (s.answer p).ackCopy = s.ackCopy := rfl
@[simp] theorem answer_classes (p : Port) : (s.answer p).classes = s.classes := rfl
@[simp] theorem answer_plans (p : Port) : (s.answer p).plans = s.plans := rfl
@[simp] theorem answer_clearanceCopies (p : Port) : (s.answer p).clearanceCopies = s.clearanceCopies := rfl
@[simp] theorem answer_orderSeqs (p : Port) : (s.answer p).orderSeqs = s.orderSeqs := rfl
@[simp] theorem answer_bays (p : Port) : (s.answer p).bays = s.bays := rfl
@[simp] theorem answer_lines (p : Port) : (s.answer p).lines = s.lines := rfl
@[simp] theorem answer_hold (p : Port) : (s.answer p).hold = s.hold := rfl
@[simp] theorem answer_ctrs (p : Port) : (s.answer p).ctrs = s.ctrs := rfl
@[simp] theorem answer_claims (p : Port) : (s.answer p).claims = s.claims := rfl
@[simp] theorem answer_admList (p : Port) : (s.answer p).admList = s.admList := rfl
@[simp] theorem answer_admCounter (p : Port) : (s.answer p).admCounter = s.admCounter := rfl
@[simp] theorem answer_effective (p : Port) : (s.answer p).effective = s.effective := rfl
@[simp] theorem answer_horizon (p : Port) : (s.answer p).horizon = s.horizon := rfl
@[simp] theorem answer_sessions (p : Port) : (s.answer p).sessions = s.sessions := rfl
@[simp] theorem answer_lampActs (p : Port) : (s.answer p).lampActs = s.lampActs := rfl
@[simp] theorem answer_faultActs (p : Port) : (s.answer p).faultActs = s.faultActs := rfl
@[simp] theorem answer_links (p : Port) : (s.answer p).links = s.links := rfl
@[simp] theorem answer_lampChs (p : Port) : (s.answer p).lampChs = s.lampChs := rfl
@[simp] theorem answer_poolList (p : Port) : (s.answer p).poolList = s.poolList := rfl
@[simp] theorem answer_poolCounter (p : Port) : (s.answer p).poolCounter = s.poolCounter := rfl
@[simp] theorem answer_reservation (p : Port) : (s.answer p).reservation = s.reservation := rfl
@[simp] theorem answer_resTimer (p : Port) : (s.answer p).resTimer = s.resTimer := rfl
@[simp] theorem answer_tables (p : Port) : (s.answer p).tables = s.tables := rfl
@[simp] theorem answer_summaries (p : Port) : (s.answer p).summaries = s.summaries := rfl
@[simp] theorem answer_reads (p : Port) : (s.answer p).reads = s.reads := rfl
@[simp] theorem answer_lampWork (p : Port) : (s.answer p).lampWork = s.lampWork := rfl
@[simp] theorem answer_lampRes (p : Port) : (s.answer p).lampRes = s.lampRes := rfl
@[simp] theorem answer_heads (p : Port) : (s.answer p).heads = s.heads := rfl
@[simp] theorem answer_clr (p : Port) : (s.answer p).clr = s.clr := rfl
@[simp] theorem answer_ev (p : Port) : (s.answer p).ev = s.ev := rfl
@[simp] theorem answer_att (p : Port) : (s.answer p).att = s.att := rfl
@[simp] theorem answer_hb (p : Port) : (s.answer p).hb = s.hb := rfl
@[simp] theorem answer_agenda (p : Port) : (s.answer p).agenda = s.agenda := rfl
@[simp] theorem answer_path (p : Port) : (s.answer p).path = { s.path with port := p } := rfl

end Sys2Proof.Machine
end

