-- ==== Sys2Proof/Laws/Marks.lean ====
section
/-! SUPPORT. The marking law of R24, R67 and R153: what a status row carries of a bay (`State.face`), the relation `Marks r s`, "every bay whose
face or fault block differs is marked, and no mark is lost", and one lemma per setter of Ops.lean and FaultTable.lean. -/

namespace Sys2Proof.Machine

/-- What the status row of a bay is made from (section 12.3). -/
structure Face where
  bay : BayRec
  lines : Bool × Bool × Bool × Bool
  ctr : Contactor
  claim : ClaimRec
  session : Session
  lamp : Stage × Option Origin × Variant
  fault : Stage × Option Origin × Variant
  step : Option LampStep
  group : Option Group
  result : LampResult
  summary : FaultSummary
  clearance : Clearance
  links : LinkIx → Bool
  lamps : LampIx → Bool

/-- The carried part of a contactor record. -/
def Contactor.shown (c : Contactor) : Contactor := { c with limit := none, startUp := false }

/-- The face of a bay. -/
def State.face (s : State) (b : Bay) : Face :=
  { bay := (s.bay b).shown, lines := (s.line b).shown, ctr := (s.ctr b).shown, claim := (s.claim b).shown, session := (s.session b).view,
    lamp := (s.act b .lamp).shown, fault := (s.act b .fault).shown, step := (s.lampWorkOf b).step, group := (s.lampWorkOf b).group,
    result := s.lampResult b, summary := s.summary b, clearance := (s.clearance b).shown,
    links := fun c => (s.link c).select == some b, lamps := fun c => (s.lampCh c).select == some b }

/-- The status row as made from a face. -/
def Face.row (x : Face) : List Word :=
  let amount := match x.claim.heat with | some h => h.amount | none => 0
  let urgent := match x.claim.heat with | some h => h.urgent | none => false
  let link := match (List.finRange 4).find? x.links with | some c => c.val | none => 7
  let lamp := match (List.finRange 2).find? x.lamps with | some c => c.val | none => 3
  [packed (x.bay.assignment.code + flagAt x.lines.1 2 + flagAt x.lines.2.1 3 + flagAt x.lines.2.2.1 4 + x.ctr.state.code * 2 ^ 5 +
    flagAt x.lines.2.2.2 8 + flagAt x.ctr.heat 9 + flagAt x.ctr.lamp 10 + flagAt x.ctr.pilot 11 + flagAt x.bay.proceed 12 + flagAt x.bay.autoLamp 13 +
    flagAt x.bay.autoFault 14 + x.bay.planField (fun p => p.classIx.val) * 2 ^ 15 + x.bay.planField PlanRow.run * 2 ^ 20),
   match x.bay.seen with | some c => packed (c.id + c.code * 2 ^ 20) | none => 0,
   packed (x.bay.planField PlanRow.coachId + x.clearance.requestField ClrRequest.run * 2 ^ 20),
   packed (x.claim.standing.getD 0 + amount * 2 ^ 8 + x.claim.lamp.getD 0 * 2 ^ 16 + flagAt x.claim.standing.isSome 24 + flagAt x.claim.heat.isSome 25 +
    flagAt x.claim.lamp.isSome 26 + flagAt urgent 27),
   packed (x.session.state.code + optCode HeatEnd.code x.session.ending * 2 ^ 3 + x.session.required * 2 ^ 6 + x.session.shown * 2 ^ 14 +
    x.clearance.lastSeq.getD 0 * 2 ^ 22 + flagAt x.clearance.lastSeq.isSome 30),
   timeWord x.session.readyBy (flagAt x.session.pauseShed 0 + flagAt x.session.pausePlug 1 + x.session.phase.code * 4),
   timeWord x.session.start (flagAt x.session.late 0 + flagAt x.session.lateReported 1 + flagAt x.session.frozen 2),
   packed (x.lamp.1.code + optCode Origin.code x.lamp.2.1 * 2 ^ 3 + x.fault.1.code * 2 ^ 5 + optCode Origin.code x.fault.2.1 * 2 ^ 8 +
    flagAt (x.fault.2.2 == .readErase) 10 + link * 2 ^ 11 + lamp * 2 ^ 14 + optCode LampStep.code x.step * 2 ^ 16 +
    (LampWork.groupShown { step := x.step, group := x.group }) * 2 ^ 19 + x.summary.total.getD 127 * 2 ^ 22 + optCode Severity.code x.summary.worst * 2 ^ 29),
   match x.result.findings with
    | some fs => packed (((List.finRange 8).map fun g => findingBits (vget fs g) * 16 ^ g.val).foldl (· + ·) 0)
    | none => 0,
   timeWord (timeToMinute x.result.judgeTime) (optCode Judged.code x.result.judged + optCode Origin.code x.result.origin * 4),
   timeWord (timeToMinute x.result.outcomeTime) (optCode EndCode.code x.result.outcome),
   timeWord (timeToMinute x.summary.completeTime) (optCode Variant.code x.summary.variant + flagAt x.summary.overflow 2 + flagAt x.summary.eraseRefused 3),
   timeWord (timeToMinute x.summary.outcomeTime) (optCode EndCode.code x.summary.outcome),
   timeWord (timeToMinute x.clearance.clearedTime) (x.clearance.state.code + x.clearance.requestField fun q => flagAt q.waiver 3),
   timeWord (timeToMinute x.clearance.outcomeTime) (optCode ClrOutcome.code x.clearance.outcome),
   packed (x.clearance.failing.toNat % 2 ^ 11 + x.clearance.reasons.toNat * 2 ^ 11 + x.summary.count * 2 ^ 26)]

/-- `s` comes from `r` by acts that mark what they change (R24): no mark is lost, and a bay whose face or whose carried fault slots differ is marked. -/
structure Marks (r s : State) : Prop where
  kept : ∀ p, vget r.post.dirty p = true → vget s.post.dirty p = true
  row : ∀ b, s.face b ≠ r.face b → vget s.post.dirty (rowPos b) = true
  block : ∀ b, (s.table b).shown ≠ (r.table b).shown → vget s.post.dirty (blockPos b) = true

namespace Marks

variable {q r s t : State}

/-- Nothing a row or block carries changes, and the marks stay. -/
theorem silent (hd : t.post.dirty = s.post.dirty) (hf : t.face = s.face) (ht : ∀ b, (t.table b).shown = (s.table b).shown) : Marks s t :=
  ⟨fun _ h => hd ▸ h, fun _ h => absurd (by rw [hf]) h, fun b h => absurd (ht b) h⟩

theorem refl (s : State) : Marks s s := silent rfl rfl fun _ => rfl

theorem trans (h : Marks q r) (k : Marks r s) : Marks q s where
  kept p := k.kept p ∘ h.kept p
  row b hb := by
    by_cases e : s.face b = r.face b
    · exact k.kept _ (h.row b (e ▸ hb))
    · exact k.row b e
  block b hb := by
    by_cases e : (s.table b).shown = (r.table b).shown
    · exact k.kept _ (h.block b (e ▸ hb))
    · exact k.block b e

theorem dirty_markPos (hp : s.path.reload = none) (p p' : Fin 32) :
    vget (s.markPos p).post.dirty p' = if p = p' then true else vget s.post.dirty p' := by
  simp [State.markPos, hp]

@[simp] theorem face_markPos (p : Fin 32) : (s.markPos p).face = s.face := rfl
@[simp] theorem face_markRow (b : Bay) (c : Bool) : (s.markRow b c).face = s.face := by unfold State.markRow; split <;> rfl
@[simp] theorem face_askVetIf (b : Bay) (c : Bool) : (s.askVetIf b c).face = s.face := by unfold State.askVetIf; split <;> rfl

/-- A record of one bay changes, and its row is marked wherever the face has changed (R67). -/
theorem atRow {b : Bay} {c : Bool} (hp : s.path.reload = none) (hq : t.path = s.path) (hd : t.post = s.post) (hb : ∀ b', b' ≠ b → t.face b' = s.face b')
    (hc : c = false → t.face b = s.face b) (ht : t.tables = s.tables) : Marks s (t.markRow b c) := by
  have hp' : t.path.reload = none := hq ▸ hp
  refine ⟨fun p h => ?_, fun b' h => ?_, fun b' h => absurd (by simp [State.table, ht]) h⟩
  · unfold State.markRow
    split
    · rw [dirty_markPos hp', hd]; split
      · rfl
      · exact h
    · rw [hd]; exact h
  · rw [face_markRow] at h
    by_cases hbb : b' = b
    · subst hbb
      cases c with
      | false => exact absurd (hc rfl) h
      | true => rw [State.markRow, if_pos rfl, dirty_markPos hp', if_pos rfl]
    · exact absurd (hb b' hbb) h

theorem askVetIf (h : Marks r s) {b : Bay} {c : Bool} : Marks r (s.askVetIf b c) :=
  h.trans (by unfold State.askVetIf; split <;> exact silent rfl rfl fun _ => rfl)

/-- Two faces agree when their parts do. -/
theorem face_ext {b : Bay} (h1 : (t.bay b).shown = (s.bay b).shown) (h2 : (t.line b).shown = (s.line b).shown)
    (h3 : (t.ctr b).shown = (s.ctr b).shown) (h4 : (t.claim b).shown = (s.claim b).shown) (h5 : (t.session b).view = (s.session b).view)
    (h6 : ∀ a, (t.act b a).shown = (s.act b a).shown) (h7 : (t.lampWorkOf b).step = (s.lampWorkOf b).step)
    (h8 : (t.lampWorkOf b).group = (s.lampWorkOf b).group) (h9 : t.lampResult b = s.lampResult b) (h10 : t.summary b = s.summary b)
    (h11 : (t.clearance b).shown = (s.clearance b).shown) (h12 : ∀ c, ((t.link c).select == some b) = ((s.link c).select == some b))
    (h13 : ∀ c, ((t.lampCh c).select == some b) = ((s.lampCh c).select == some b)) : t.face b = s.face b := by
  simp only [State.face, h1, h2, h3, h4, h5, h6, h7, h8, h9, h10, h11, h12, h13]

/-! ### Marking changes the dirty set alone -/

theorem markRow_eq (s : State) (b : Bay) (c : Bool) : ∃ d, s.markRow b c = { s with post := { s.post with dirty := d } } := by
  unfold State.markRow; split
  · exact ⟨_, rfl⟩
  · exact ⟨_, rfl⟩

theorem markBlock_eq (s : State) (b : Bay) (c : Bool) : ∃ d, s.markBlock b c = { s with post := { s.post with dirty := d } } := by
  unfold State.markBlock; split
  · exact ⟨_, rfl⟩
  · exact ⟨_, rfl⟩

theorem markHolder_eq (s : State) (h : Option Bay) (c : Bool) : ∃ d, s.markHolder h c = { s with post := { s.post with dirty := d } } := by
  unfold State.markHolder; split
  · exact markRow_eq _ _ _
  · exact ⟨_, rfl⟩

/-! ### The setters -/

theorem of_bne {α : Type} [BEq α] [LawfulBEq α] {x y : α} (h : (x != y) = false) : y = x := (bne_eq_false_iff_eq.mp h).symm

theorem vget_vset_ne {α : Type} {n : Nat} {v : Vector α n} {i j : Fin n} {x : α} (h : j ≠ i) : vget (vset v i x) j = vget v j :=
  (vget_vset v i j x).trans (if_neg (Ne.symm h))

theorem setBay (hp : s.path.reload = none) {b : Bay} {x : BayRec} : Marks s (s.setBay b x) := by
  unfold State.setBay
  refine atRow hp rfl rfl (fun b' hb => ?_) (fun hc => ?_) rfl
  · apply face_ext <;> intros <;> first | rfl | exact congrArg BayRec.shown (vget_vset_ne hb)
  · have := of_bne hc
    apply face_ext <;> intros <;> first | rfl | exact (congrArg BayRec.shown (vget_vset_self _ _ _)).trans this

theorem setLines (hp : s.path.reload = none) {b : Bay} {x : BayLines} : Marks s (s.setLines b x) := by
  unfold State.setLines
  refine atRow hp rfl rfl (fun b' hb => ?_) (fun hc => ?_) rfl
  · apply face_ext <;> intros <;> first | rfl | exact congrArg BayLines.shown (vget_vset_ne hb)
  · have := of_bne hc
    apply face_ext <;> intros <;> first | rfl | exact (congrArg BayLines.shown (vget_vset_self _ _ _)).trans this

theorem setCtr (hp : s.path.reload = none) {b : Bay} {x : Contactor} : Marks s (s.setCtr b x) := by
  unfold State.setCtr
  refine atRow hp rfl rfl (fun b' hb => ?_) (fun hc => ?_) rfl
  · apply face_ext <;> intros <;> first | rfl | exact congrArg Contactor.shown (vget_vset_ne hb)
  · have := of_bne hc
    apply face_ext <;> intros <;> first | rfl | exact (congrArg Contactor.shown (vget_vset_self _ _ _)).trans this

theorem setLampResult (hp : s.path.reload = none) {b : Bay} {x : LampResult} : Marks s (s.setLampResult b x) := by
  unfold State.setLampResult
  refine atRow hp rfl rfl (fun b' hb => ?_) (fun hc => ?_) rfl
  · apply face_ext <;> intros <;> first | rfl | exact vget_vset_ne hb
  · have := of_bne hc
    apply face_ext <;> intros <;> first | rfl | exact (vget_vset_self _ _ _).trans this

theorem setSummary (hp : s.path.reload = none) {b : Bay} {x : FaultSummary} : Marks s (s.setSummary b x) := by
  unfold State.setSummary
  refine atRow hp rfl rfl (fun b' hb => ?_) (fun hc => ?_) rfl
  · apply face_ext <;> intros <;> first | rfl | exact vget_vset_ne hb
  · have := of_bne hc
    apply face_ext <;> intros <;> first | rfl | exact (vget_vset_self _ _ _).trans this

theorem setClearance (hp : s.path.reload = none) {b : Bay} {x : Clearance} : Marks s (s.setClearance b x) := by
  unfold State.setClearance
  refine atRow hp rfl rfl (fun b' hb => ?_) (fun hc => ?_) rfl
  · apply face_ext <;> intros <;> first | rfl | exact congrArg Clearance.shown (vget_vset_ne hb)
  · have := of_bne hc
    apply face_ext <;> intros <;> first | rfl | exact (congrArg Clearance.shown (vget_vset_self _ _ _)).trans this

theorem setClaim (hp : s.path.reload = none) {b : Bay} {x : ClaimRec} : Marks s (s.setClaim b x) := by
  unfold State.setClaim
  apply Marks.askVetIf
  refine atRow hp rfl rfl (fun b' hb => ?_) (fun hc => ?_) rfl
  · apply face_ext <;> intros <;> first | rfl | exact congrArg ClaimRec.shown (vget_vset_ne hb)
  · have := of_bne hc
    apply face_ext <;> intros <;> first | rfl | exact (congrArg ClaimRec.shown (vget_vset_self _ _ _)).trans this

theorem setSession (hp : s.path.reload = none) {b : Bay} {x : Session} : Marks s (s.setSession b x) := by
  unfold State.setSession
  apply Marks.askVetIf
  refine atRow hp rfl rfl (fun b' hb => ?_) (fun hc => ?_) rfl
  · apply face_ext <;> intros <;> first | rfl | exact congrArg Session.view (vget_vset_ne hb)
  · have := of_bne hc
    apply face_ext <;> intros <;> first | rfl | exact (congrArg Session.view (vget_vset_self _ _ _)).trans this

theorem setAct (hp : s.path.reload = none) {b : Bay} {act : Activity} {a : ActRec} : Marks s (s.setAct b act a) := by
  unfold State.setAct
  cases act
  all_goals
    apply Marks.askVetIf
    refine atRow hp rfl rfl (fun b' hb => ?_) (fun hc => ?_) rfl
    · apply face_ext <;> first | (intros; rfl) | (intro a'; cases a' <;> first | rfl | exact congrArg ActRec.shown (vget_vset_ne hb))
    · have := of_bne hc
      apply face_ext <;> first | (intros; rfl) | (intro a'; cases a' <;> first | rfl | exact (congrArg ActRec.shown (vget_vset_self _ _ _)).trans this)

theorem setLampWork (hp : s.path.reload = none) {b : Bay} {w : LampWork} : Marks s (s.setLampWork b w) := by
  unfold State.setLampWork
  refine atRow hp rfl rfl (fun b' hb => ?_) (fun hc => ?_) rfl
  · apply face_ext <;> intros <;> first | rfl | exact congrArg LampWork.step (vget_vset_ne hb) | exact congrArg LampWork.group (vget_vset_ne hb)
  · have := Bool.or_eq_false_iff.mp hc
    apply face_ext <;> intros <;> first | rfl | exact (congrArg LampWork.step (vget_vset_self _ _ _)).trans (of_bne this.1) |
      exact (congrArg LampWork.group (vget_vset_self _ _ _)).trans (of_bne this.2)

/-- A channel's holder changes, and the rows of the old and the new bay are marked (R131). -/
theorem atHolders {h1 h2 : Option Bay} {c : Bool} (hp : s.path.reload = none) (hq : t.path = s.path) (hd : t.post = s.post)
    (hf : ∀ b, c = false ∨ h1 ≠ some b ∧ h2 ≠ some b → t.face b = s.face b) (ht : t.tables = s.tables) :
    Marks s ((t.markHolder h1 c).markHolder h2 c) := by
  have hp' : t.path.reload = none := hq ▸ hp
  have dirt : ∀ (u : State) h p, u.path.reload = none → vget (u.markHolder h c).post.dirty p =
      if c = true ∧ h.map rowPos = some p then true else vget u.post.dirty p := by
    intro u h p hu
    unfold State.markHolder State.markRow
    cases h with
    | none => simp
    | some b => cases c <;> simp [dirty_markPos hu]
  have face : ∀ (u : State) h, (u.markHolder h c).face = u.face := by
    intro u h; unfold State.markHolder; split
    · exact face_markRow _ _
    · rfl
  have e := fun p => dirt (t.markHolder h1 c) h2 p (by simp [hp'])
  have e1 := fun p => dirt t h1 p hp'
  refine ⟨fun p h => ?_, fun b h => ?_, fun b h => absurd (by simp [State.table, ht]) h⟩
  · rw [e, e1, hd]; split
    · rfl
    · split
      · rfl
      · exact h
  · rw [face, face] at h
    rw [e, e1]
    by_cases hc : c = true
    · by_cases h2' : h2 = some b
      · simp [hc, h2']
      · by_cases h1' : h1 = some b
        · simp [hc, h1']
        · exact absurd (hf b (Or.inr ⟨h1', h2'⟩)) h
    · exact absurd (hf b (Or.inl (by simpa using hc))) h

theorem setLink (hp : s.path.reload = none) {ch : LinkIx} {x : LinkChannel} : Marks s (s.setLink ch x) := by
  unfold State.setLink
  refine atHolders hp rfl rfl (fun b h => ?_) rfl
  apply face_ext <;> first | (intros; rfl) | skip
  intro c
  simp only [State.link, vget_vset]
  by_cases e : ch = c
  · subst e
    rw [if_pos rfl]
    rcases h with h | ⟨h1, h2⟩
    · rw [of_bne h]; rfl
    · exact (beq_eq_false_iff_ne.mpr h2).trans (beq_eq_false_iff_ne.mpr h1).symm
  · rw [if_neg e]

theorem setLampCh (hp : s.path.reload = none) {ch : LampIx} {x : LampChannel} : Marks s (s.setLampCh ch x) := by
  unfold State.setLampCh
  refine atHolders hp rfl rfl (fun b h => ?_) rfl
  apply face_ext <;> first | (intros; rfl) | skip
  intro c
  simp only [State.lampCh, vget_vset]
  by_cases e : ch = c
  · subst e
    rw [if_pos rfl]
    rcases h with h | ⟨h1, h2⟩
    · rw [of_bne h]; rfl
    · exact (beq_eq_false_iff_ne.mpr h2).trans (beq_eq_false_iff_ne.mpr h1).symm
  · rw [if_neg e]

/-- A bay's table changes, and its fault block is marked wherever a carried slot has changed (R153). -/
theorem atBlock {b : Bay} {c : Bool} (hp : s.path.reload = none) (hq : t.path = s.path) (hd : t.post = s.post) (hf : t.face = s.face)
    (hb : ∀ b', b' ≠ b → t.table b' = s.table b') (hc : c = false → (t.table b).shown = (s.table b).shown) : Marks s (t.markBlock b c) := by
  have hp' : t.path.reload = none := hq ▸ hp
  cases c with
  | false =>
    refine silent (t := t) (congrArg PostEngine.dirty hd) hf fun b' => ?_
    by_cases hbb : b' = b
    · exact hbb ▸ hc rfl
    · rw [hb b' hbb]
  | true =>
    refine ⟨fun p h => ?_, fun b' h => absurd (congrFun hf b') h, fun b' h => ?_⟩
    · rw [State.markBlock, if_pos rfl, dirty_markPos hp', hd]; split
      · rfl
      · exact h
    · by_cases hbb : b' = b
      · subst hbb; rw [State.markBlock, if_pos rfl, dirty_markPos hp', if_pos rfl]
      · exact absurd (congrArg FaultTable.shown (hb b' hbb)) h

theorem setTable (hp : s.path.reload = none) {b : Bay} {x : FaultTable} : Marks s (s.setTable b x) := by
  have h1 : Marks s (({ s with tables := vset s.tables b x }.markBlock b ((s.table b).shown != x.shown)).askVetIf b ((s.table b).shown != x.shown)) := by
    apply Marks.askVetIf
    refine atBlock hp rfl rfl rfl (fun b' hb => vget_vset_ne hb) fun hc => ?_
    exact (congrArg FaultTable.shown (vget_vset_self _ _ _)).trans (of_bne hc)
  exact h1.trans (setSummary (by simp [hp]))

/-! ### What the marks say of the posted words -/

theorem planField_shown (r : BayRec) {f : PlanRow → Nat} (hf : ∀ p : PlanRow, f { p with autoChecks := false, roster := none, readyBy := none } = f p) :
    r.shown.planField f = r.planField f := by
  unfold BayRec.planField BayRec.shown; cases r.plan <;> simp [hf]

theorem requestField_shown (c : Clearance) {f : ClrRequest → Nat} (hf : ∀ q : ClrRequest, f { q with seq := 0 } = f q) :
    c.shown.requestField f = c.requestField f := by
  unfold Clearance.requestField Clearance.shown; cases c.request <;> simp [hf]

/-- The status row is made from the face. -/
theorem statusRow_eq (s : State) (b : Bay) : s.statusRow b = (s.face b).row := by
  have hc : ∀ c : ClaimRec, (match c.shown.heat with | some h => h.amount | none => 0) = (match c.heat with | some h => h.amount | none => 0) ∧
      (match c.shown.heat with | some h => h.urgent | none => false) = (match c.heat with | some h => h.urgent | none => false) ∧
      c.shown.heat.isSome = c.heat.isSome := by
    intro c; unfold ClaimRec.shown; cases c.heat <;> simp
  obtain ⟨h1, h2, h3⟩ := hc (s.claim b)
  simp only [State.statusRow, Face.row, State.face]
  rw [planField_shown _ (f := fun p => p.classIx.val) fun _ => rfl, planField_shown _ (f := PlanRow.run) fun _ => rfl,
    planField_shown _ (f := PlanRow.coachId) fun _ => rfl, requestField_shown _ (f := ClrRequest.run) fun _ => rfl,
    requestField_shown _ (f := fun q => flagAt q.waiver 3) fun _ => rfl, h1, h2, h3]
  rfl

/-- The fault block is made from what its slots carry. -/
theorem faultBlock_eq (s : State) (b : Bay) : s.faultBlock b = ((s.table b).shown.map fun
    | some x => [packed (x.1 * 2 ^ 16 + x.2.2.2.1 * 2 ^ 8 + x.2.1.code * 2 ^ 6 + flagAt x.2.2.1 5), timeWord x.2.2.2.2 0]
    | none => [0, 0]).flatten := by
  have hv : (s.table b).slots.toList = (List.finRange 8).map (vget (s.table b).slots) := by
    apply List.ext_getElem <;> simp [vget]
  rw [State.faultBlock, FaultTable.shown, hv]
  simp only [List.map_map]
  congr 1
  apply List.map_congr_left
  intro k _
  simp only [Function.comp, slotWords]
  cases vget (s.table b).slots k <;> rfl

/-- A bay whose status row or fault block differs is marked (R24, R67, R153). -/
theorem posted (h : Marks r s) (b : Bay) : (s.statusRow b ≠ r.statusRow b → vget s.post.dirty (rowPos b) = true) ∧
    (s.faultBlock b ≠ r.faultBlock b → vget s.post.dirty (blockPos b) = true) := by
  refine ⟨fun k => h.row b fun e => k ?_, fun k => h.block b fun e => k ?_⟩
  · rw [statusRow_eq, statusRow_eq, e]
  · rw [faultBlock_eq, faultBlock_eq, e]

end Marks
end Sys2Proof.Machine
end

