-- ==== Sys2Proof/Laws/Inner.lean ====
section
/-! SUPPORT. What every block of the SJ16 keeps while it acts: the relation `Inner r s`, "s comes from r by acts of the blocks", and its
lemmas for the setters of Ops.lean. A block's act leaves everything in `Outer`, only adds to the Event Buffer, marks what it changes, and keeps the laws. -/

namespace Sys2Proof.Machine

open Sys2Proof.Safety Sys2Proof.Config

/-- What no block's act changes: memory and ports, captured records, clock, lines, horizon, heads, supervision, ring indices. -/
structure Outer where
  pending : List Instr
  timeBase : Nat
  clock : Clock
  mem : Memory
  path : Path
  sel : Option Posting
  lastRow : Fin 32
  lastStream : Stream
  cap : Capture
  settings : Settings
  clockSetCopy : Option ClockSetRow
  ackCopy : Option AckRow
  classes : Vector (Option ClassRow) 32
  plans : Bays (Option PlanRow)
  clearanceCopies : Bays (Option ClearRow)
  orderSeqs : Bays (Option Nat)
  lines : Bays BayLines
  hold : LineState
  horizon : Nat
  heads : Bays Set8
  hb : Heartbeat
  producer : BitVec 16
  consumer : BitVec 16
  epoch : BitVec 16

/-- The outer part of a state. -/
def State.outer (s : State) : Outer :=
  { pending := s.pending, timeBase := s.timeBase, clock := s.clock, mem := s.mem, path := s.path, sel := s.post.sel,
    lastRow := s.post.lastRow, lastStream := s.post.lastStream, cap := s.cap, settings := s.settings, clockSetCopy := s.clockSetCopy,
    ackCopy := s.ackCopy, classes := s.classes, plans := s.plans, clearanceCopies := s.clearanceCopies, orderSeqs := s.orderSeqs,
    lines := s.lines, hold := s.hold, horizon := s.horizon, heads := s.heads, hb := s.hb, producer := s.ev.producer,
    consumer := s.ev.consumer, epoch := s.ev.epoch }

/-- The Event Unit `v` comes from `u` by creating events (R201, R203). -/
structure Grown (u v : EventUnit) : Prop where
  held : u.buffer <+: v.buffer
  room : u.buffer.length ≤ bufferCapacity → v.buffer.length ≤ bufferCapacity
  balance : v.stamp.setWidth 16 - BitVec.ofNat 16 v.buffer.length - v.missed.setWidth 16 =
    u.stamp.setWidth 16 - BitVec.ofNat 16 u.buffer.length - u.missed.setWidth 16

theorem Grown.refl (u : EventUnit) : Grown u u := ⟨List.prefix_refl _, id, rfl⟩

theorem Grown.trans {u v w : EventUnit} (h : Grown u v) (k : Grown v w) : Grown u w :=
  ⟨h.held.trans k.held, fun x => k.room (h.room x), k.balance.trans h.balance⟩

theorem setWidth_succ (x : BitVec 32) : (x + 1).setWidth 16 = x.setWidth 16 + 1 := BitVec.setWidth_add x 1 (by decide)

theorem Grown.add (u : EventUnit) (r : EventRec) (hs : r.stamp = u.stamp + 1) : Grown u (u.add r) := by
  unfold EventUnit.add
  split
  · rename_i hl
    refine ⟨List.prefix_append _ _, fun _ => ?_, ?_⟩
    · simp only [List.length_append, List.length_singleton]; omega
    · simp only [hs, List.length_append, List.length_singleton, BitVec.ofNat_add, setWidth_succ]
      generalize u.stamp.setWidth 16 = a; generalize BitVec.ofNat 16 u.buffer.length = b; bv_omega
  · refine ⟨List.prefix_refl _, id, ?_⟩
    simp only [hs, setWidth_succ]
    generalize u.stamp.setWidth 16 = a; generalize BitVec.setWidth 16 u.missed = b; bv_omega

/-- What an act keeps apart from the laws about clearances. -/
structure Mild (r s : State) : Prop where
  outer : s.outer = r.outer
  grown : Grown r.ev s.ev
  quiet : r.path.reload.isSome = true → s.ev = r.ev ∧ s.att = r.att
  budget : BudgetLaw r → BudgetLaw s
  standing : StandingLaw r → StandingLaw s
  tables : TablesLaw r → TablesLaw s
  marks : r.path.reload = none → Marks r s

/-- `s` comes from `r` by acts of the blocks. -/
structure Inner (r s : State) : Prop where
  mild : Mild r s
  signal : SignalLaw r → SignalLaw s
  contactor : ContactorLaw r → ContactorLaw s
  asleep : ReloadQuiet r → ReloadQuiet s

theorem Mild.refl (s : State) : Mild s s := ⟨rfl, Grown.refl _, fun _ => ⟨rfl, rfl⟩, id, id, id, fun _ => .refl s⟩

theorem Mild.trans {q r s : State} (h : Mild q r) (k : Mild r s) : Mild q s where
  outer := k.outer.trans h.outer
  grown := h.grown.trans k.grown
  quiet := fun x => by
    have hp : r.path = q.path := congrArg Outer.path h.outer
    have := h.quiet x
    have := k.quiet (by rw [hp]; exact x)
    simp_all
  budget := k.budget ∘ h.budget
  standing := k.standing ∘ h.standing
  tables := k.tables ∘ h.tables
  marks := fun x => (h.marks x).trans (k.marks (by rw [show r.path = q.path from congrArg Outer.path h.outer]; exact x))

theorem Inner.refl (s : State) : Inner s s := ⟨Mild.refl s, id, id, id⟩

theorem Inner.trans {q r s : State} (h : Inner q r) (k : Inner r s) : Inner q s :=
  ⟨h.mild.trans k.mild, k.signal ∘ h.signal, k.contactor ∘ h.contactor, k.asleep ∘ h.asleep⟩

theorem Mild.inner {q r s : State} (h : Mild q r) (k : Inner r s) : Mild q s := h.trans k.mild

theorem Mild.setBay {r s : State} (h : Mild r s) {b : Bay} {x : BayRec} : Mild r (s.setBay b x) := by
  have hm := fun hp => Marks.setBay (s := s) hp (b := b) (x := x)
  refine h.trans ?_
  revert hm
  unfold State.setBay State.markRow State.markPos
  split <;> exact fun hm => ⟨rfl, Grown.refl _, fun _ => ⟨rfl, rfl⟩, id, id, id, hm⟩

theorem Mild.setCtr {r s : State} (h : Mild r s) {b : Bay} {x : Contactor} : Mild r (s.setCtr b x) := by
  have hm := fun hp => Marks.setCtr (s := s) hp (b := b) (x := x)
  refine h.trans ?_
  revert hm
  unfold State.setCtr State.markRow State.markPos
  split <;> exact fun hm => ⟨rfl, Grown.refl _, fun _ => ⟨rfl, rfl⟩, id, id, id, hm⟩

theorem Mild.setClearance {r s : State} (h : Mild r s) {b : Bay} {x : Clearance} : Mild r (s.setClearance b x) := by
  have hm := fun hp => Marks.setClearance (s := s) hp (b := b) (x := x)
  refine h.trans ?_
  revert hm
  unfold State.setClearance State.markRow State.markPos
  split <;> exact fun hm => ⟨rfl, Grown.refl _, fun _ => ⟨rfl, rfl⟩, id, id, id, hm⟩

namespace Inner

variable {r s : State}

/-- A change of fields that no law reads, marked where a row carries them. -/
theorem same (h : Inner r s) {u : State} (ho : u.outer = s.outer) (he : u.ev = s.ev) (ha : u.att = s.att) (hf : u.effective = s.effective)
    (hc : u.claims = s.claims) (hb : u.bays = s.bays) (hr : u.clr = s.clr) (hk : u.ctrs = s.ctrs) (ht : u.tables = s.tables)
    (hm : s.path.reload = none → Marks s u := by exact fun _ => .silent rfl rfl fun _ => rfl) : Inner r u := by
  have hset : u.settings = s.settings := congrArg Outer.settings ho
  have hp : u.path = s.path := congrArg Outer.path ho
  refine h.trans ⟨⟨ho, he ▸ Grown.refl _, fun _ => ⟨he, ha⟩, ?_, ?_, ?_, hm⟩, ?_, ?_, ?_⟩
  · simp [BudgetLaw, State.granted, hf, hc, hset]
  · simp [StandingLaw, State.claim, hc]
  · simp [TablesLaw, State.table, ht]
  · simp [SignalLaw, State.bay, State.clearance, hb, hr]
  · simp [ContactorLaw, State.ctr, State.clearance, hk, hr]
  · simp [ReloadQuiet, State.clearance, hp, hr]

/-! ### Marks, agenda, lists -/

theorem markPos (h : Inner r s) {p : Fin 32} : Inner r (s.markPos p) :=
  h.same rfl rfl rfl rfl rfl rfl rfl rfl rfl fun hp =>
    ⟨fun p' hd => by rw [Marks.dirty_markPos hp]; split <;> first | rfl | exact hd, fun _ k => absurd rfl k, fun _ k => absurd rfl k⟩
theorem markRow (h : Inner r s) {b : Bay} {c : Bool} : Inner r (s.markRow b c) := by
  unfold State.markRow; split
  · exact h.markPos
  · exact h
theorem markBlock (h : Inner r s) {b : Bay} {c : Bool} : Inner r (s.markBlock b c) := by
  unfold State.markBlock; split
  · exact h.markPos
  · exact h
theorem markHolder (h : Inner r s) {b : Option Bay} {c : Bool} : Inner r (s.markHolder b c) := by
  unfold State.markHolder; split
  · exact h.markRow
  · exact h
theorem askAdmission (h : Inner r s) : Inner r s.askAdmission := h.same rfl rfl rfl rfl rfl rfl rfl rfl rfl
theorem askLoad (h : Inner r s) {x y : Bool} : Inner r (s.askLoad x y) := h.same rfl rfl rfl rfl rfl rfl rfl rfl rfl
theorem askPool (h : Inner r s) : Inner r s.askPool := h.same rfl rfl rfl rfl rfl rfl rfl rfl rfl
theorem askVet (h : Inner r s) {b : Bay} : Inner r (s.askVet b) := h.same rfl rfl rfl rfl rfl rfl rfl rfl rfl
theorem askVetAll (h : Inner r s) : Inner r s.askVetAll := h.same rfl rfl rfl rfl rfl rfl rfl rfl rfl
theorem askVetIf (h : Inner r s) {b : Bay} {c : Bool} : Inner r (s.askVetIf b c) := by
  unfold State.askVetIf; split
  · exact h.askVet
  · exact h
theorem setAgenda (h : Inner r s) {x : Agenda} : Inner r { s with agenda := x } := h.same rfl rfl rfl rfl rfl rfl rfl rfl rfl
theorem setAdmList (h : Inner r s) {x : List AEntry} : Inner r { s with admList := x } := h.same rfl rfl rfl rfl rfl rfl rfl rfl rfl
theorem setAdmCounter (h : Inner r s) {x : Nat} : Inner r { s with admCounter := x } := h.same rfl rfl rfl rfl rfl rfl rfl rfl rfl
theorem setPoolList (h : Inner r s) {x : List CEntry} : Inner r { s with poolList := x } := h.same rfl rfl rfl rfl rfl rfl rfl rfl rfl
theorem setPool (h : Inner r s) {x : List CEntry} {n : Nat} : Inner r { s with poolList := x, poolCounter := n } :=
  h.same rfl rfl rfl rfl rfl rfl rfl rfl rfl
theorem setReservation (h : Inner r s) {x : Option Bay} : Inner r { s with reservation := x } := h.same rfl rfl rfl rfl rfl rfl rfl rfl rfl
theorem setResTimer (h : Inner r s) {x : Option (Bay × Nat)} : Inner r { s with resTimer := x } := h.same rfl rfl rfl rfl rfl rfl rfl rfl rfl
theorem setReserve (h : Inner r s) {x : Option Bay} {y : Option (Bay × Nat)} : Inner r { s with reservation := x, resTimer := y } :=
  h.same rfl rfl rfl rfl rfl rfl rfl rfl rfl
theorem setRead (h : Inner r s) {b : Bay} {x : ReadWork} : Inner r (s.setRead b x) := h.same rfl rfl rfl rfl rfl rfl rfl rfl rfl

/-! ### Setters that no law reads -/

theorem setSession (h : Inner r s) {b : Bay} {x : Session} : Inner r (s.setSession b x) := by
  have hm := fun hp => Marks.setSession (s := s) hp (b := b) (x := x)
  revert hm
  unfold State.setSession State.askVetIf State.markRow State.markPos
  split <;> split <;> exact fun hm => h.same rfl rfl rfl rfl rfl rfl rfl rfl rfl hm
theorem setLampWork (h : Inner r s) {b : Bay} {w : LampWork} : Inner r (s.setLampWork b w) := by
  have hm := fun hp => Marks.setLampWork (s := s) hp (b := b) (w := w)
  revert hm
  unfold State.setLampWork State.markRow State.markPos
  split <;> exact fun hm => h.same rfl rfl rfl rfl rfl rfl rfl rfl rfl hm
theorem setLampResult (h : Inner r s) {b : Bay} {x : LampResult} : Inner r (s.setLampResult b x) := by
  have hm := fun hp => Marks.setLampResult (s := s) hp (b := b) (x := x)
  revert hm
  unfold State.setLampResult State.markRow State.markPos
  split <;> exact fun hm => h.same rfl rfl rfl rfl rfl rfl rfl rfl rfl hm
theorem setSummary (h : Inner r s) {b : Bay} {x : FaultSummary} : Inner r (s.setSummary b x) := by
  have hm := fun hp => Marks.setSummary (s := s) hp (b := b) (x := x)
  revert hm
  unfold State.setSummary State.markRow State.markPos
  split <;> exact fun hm => h.same rfl rfl rfl rfl rfl rfl rfl rfl rfl hm
theorem setAct (h : Inner r s) {b : Bay} {act : Activity} {a : ActRec} : Inner r (s.setAct b act a) := by
  have hm := fun hp => Marks.setAct (s := s) hp (b := b) (act := act) (a := a)
  revert hm
  unfold State.setAct State.askVetIf State.markRow State.markPos
  cases act <;> dsimp only <;> split <;> split <;> exact fun hm => h.same rfl rfl rfl rfl rfl rfl rfl rfl rfl hm
theorem setLink (h : Inner r s) {c : LinkIx} {x : LinkChannel} : Inner r (s.setLink c x) := by
  have hm := fun hp => Marks.setLink (s := s) hp (ch := c) (x := x)
  obtain ⟨d, e⟩ := Marks.markHolder_eq { s with links := vset s.links c x } (s.link c).select ((s.link c).select != x.select)
  obtain ⟨d', e'⟩ := Marks.markHolder_eq ({ s with links := vset s.links c x }.markHolder (s.link c).select ((s.link c).select != x.select))
    x.select ((s.link c).select != x.select)
  revert hm
  unfold State.setLink
  rw [e', e]
  exact fun hm => h.same rfl rfl rfl rfl rfl rfl rfl rfl rfl hm
theorem setLampCh (h : Inner r s) {c : LampIx} {x : LampChannel} : Inner r (s.setLampCh c x) := by
  have hm := fun hp => Marks.setLampCh (s := s) hp (ch := c) (x := x)
  obtain ⟨d, e⟩ := Marks.markHolder_eq { s with lampChs := vset s.lampChs c x } (s.lampCh c).select ((s.lampCh c).select != x.select)
  obtain ⟨d', e'⟩ := Marks.markHolder_eq ({ s with lampChs := vset s.lampChs c x }.markHolder (s.lampCh c).select ((s.lampCh c).select != x.select))
    x.select ((s.lampCh c).select != x.select)
  revert hm
  unfold State.setLampCh
  rw [e', e]
  exact fun hm => h.same rfl rfl rfl rfl rfl rfl rfl rfl rfl hm

/-! ### Events -/

theorem raise (h : Inner r s) {k : Kind} {b : Option Bay} {d q : Nat} : Inner r (s.raise k b d q) := by
  unfold State.raise
  split
  · exact h
  · rename_i hn
    refine h.trans ⟨⟨?_, Grown.add _ _ rfl, fun x => absurd x hn, id, id, id, fun _ => .silent rfl rfl fun _ => rfl⟩, id, id, id⟩
    simp only [State.outer, EventUnit.add]
    split <;> rfl

/-! ### Setters that a law reads -/

/-- The Bay Record changes; an exit signal that shows PROCEED showed it before, or the clearance is CLEARED. -/
theorem setBay (h : Inner r s) {b : Bay} {x : BayRec}
    (hx : x.proceed = true → (s.bay b).proceed = true ∨ (s.clearance b).state = .cleared) : Inner r (s.setBay b x) := by
  obtain ⟨d, e⟩ := Marks.markRow_eq { s with bays := vset s.bays b x } b ((s.bay b).shown != x.shown)
  have e' : s.setBay b x = _ := e
  refine h.trans ⟨(Mild.refl s).setBay, ?_, by rw [e']; exact id, by rw [e']; exact id⟩
  intro hl b' hp
  rw [e'] at hp ⊢
  by_cases hb : b = b'
  · subst hb
    simp only [State.bay, vget_vset, if_true] at hp
    rcases hx hp with h1 | h1
    · exact hl _ h1
    · exact h1
  · simp only [State.bay, vget_vset, if_neg hb] at hp
    exact hl b' hp

/-- The contactor record changes but not its state. -/
theorem setCtr (h : Inner r s) {b : Bay} {x : Contactor} (hx : x.state = (s.ctr b).state) : Inner r (s.setCtr b x) := by
  obtain ⟨d, e⟩ := Marks.markRow_eq { s with ctrs := vset s.ctrs b x } b
    ({ s.ctr b with limit := none, startUp := false } != { x with limit := none, startUp := false })
  have e' : s.setCtr b x = _ := e
  refine h.trans ⟨(Mild.refl s).setCtr, by rw [e']; exact id, ?_, by rw [e']; exact id⟩
  intro hl b' hp
  rw [e'] at hp ⊢
  by_cases hb : b = b'
  · subst hb
    have := hl b hp
    simp only [State.ctr, vget_vset, if_true]
    exact hx.trans this
  · simp only [State.ctr, vget_vset, if_neg hb]
    exact hl b' hp

/-- The clearance record changes but not its state. -/
theorem setClearance (h : Inner r s) {b : Bay} {x : Clearance} (hx : x.state = (s.clearance b).state) : Inner r (s.setClearance b x) := by
  obtain ⟨d, e⟩ := Marks.markRow_eq { s with clr := vset s.clr b x } b ((s.clearance b).shown != x.shown)
  have e' : s.setClearance b x = _ := e
  have key : ∀ b', ((s.setClearance b x).clearance b').state = (s.clearance b').state := by
    intro b'
    rw [e']
    by_cases hb : b = b'
    · subst hb; simp only [State.clearance, vget_vset, if_true]; exact hx
    · simp only [State.clearance, vget_vset, if_neg hb]
  refine h.trans ⟨(Mild.refl s).setClearance, ?_, ?_, ?_⟩
  · intro hl b' hp; rw [key]; exact hl b' (by rw [e'] at hp; exact hp)
  · intro hl b' hp; rw [key] at hp; rw [e']; exact hl b' hp
  · intro hl hp b'; rw [key]; exact hl (by rw [e'] at hp; exact hp) b'

/-- The claim record of a bay changes; `hx`: it still holds STANDING where it holds HEAT or LAMP. -/
def ClaimOk (old new : ClaimRec) : Prop :=
  (old.heat.isSome ∨ old.lamp.isSome → old.standing.isSome) → (new.heat.isSome ∨ new.lamp.isSome → new.standing.isSome)

theorem standing_set {b : Bay} {x : ClaimRec} (hx : ClaimOk (s.claim b) x) (hl : StandingLaw s) :
    StandingLaw { s with claims := vset s.claims b x } := by
  intro b'
  by_cases hb : b = b'
  · subst hb; simp only [State.claim, vget_vset, if_true]; exact hx (hl b)
  · simp only [State.claim, vget_vset, if_neg hb]; exact hl b'

theorem total_vset {v : Bays ClaimRec} {b : Bay} {x : ClaimRec} (hx : x.total = (vget v b).total) :
    (vset v b x).toList.map ClaimRec.total = v.toList.map ClaimRec.total := by
  have hl : b.val < v.toList.length := by simp
  have hx' : x.total = (v.toList[b.val]'hl).total := by simpa [vget] using hx
  rw [vset, Vector.toList_set, List.map_set, hx', ← List.getElem_map (f := ClaimRec.total) (h := by simp), List.set_getElem_self]

theorem setClaim (h : Inner r s) {b : Bay} {x : ClaimRec} (ht : x.total = (s.claim b).total) (hx : ClaimOk (s.claim b) x) :
    Inner r (s.setClaim b x) := by
  have hm := fun hp => Marks.setClaim (s := s) hp (b := b) (x := x)
  refine h.trans ?_
  have hb : BudgetLaw s → BudgetLaw { s with claims := vset s.claims b x } := ?_
  · have hs := standing_set (s := s) (b := b) hx
    revert hm
    unfold State.setClaim State.askVetIf State.markRow State.markPos
    split <;> exact fun hm => ⟨⟨rfl, Grown.refl _, fun _ => ⟨rfl, rfl⟩, hb, hs, id, hm⟩, id, id, id⟩
  intro hl
  have := total_vset (v := s.claims) (b := b) (x := x) ht
  simp only [BudgetLaw, State.granted] at hl ⊢
  rw [this]; exact hl

/-- The budget is recomputed: the law holds whatever the claims were (R91). -/
theorem rebudget (h : Inner r s) {t : Nat} : Inner r (s.rebudget t) := by
  have h1 : Inner s { s with effective := max s.settings.target s.granted } :=
    ⟨⟨rfl, Grown.refl _, fun _ => ⟨rfl, rfl⟩, fun _ => rfl, id, id, fun _ => .silent rfl rfl fun _ => rfl⟩, id, id, id⟩
  unfold State.rebudget
  dsimp only
  split
  · exact h.trans h1.askAdmission.raise
  · exact h.trans h1.askAdmission

/-- A claim changes and the budget is recomputed (R91, R95). -/
theorem setClaim_rebudget (h : Inner r s) {b : Bay} {x : ClaimRec} {t : Nat} (hx : ClaimOk (s.claim b) x) :
    Inner r ((s.setClaim b x).rebudget t) := by
  have hset : ∀ u : State, (BudgetLaw (u.rebudget t)) := by
    intro u
    unfold State.rebudget
    dsimp only
    split
    · simp [BudgetLaw, State.granted]
    · simp [BudgetLaw, State.granted]
  have h1 : Inner { s with claims := vset s.claims b x } ((s.setClaim b x).rebudget t) :=
    Inner.rebudget (Inner.askVetIf (Inner.markRow (Inner.refl _)))
  exact h.trans ⟨⟨h1.mild.outer, h1.mild.grown, h1.mild.quiet, fun _ => hset _, fun hl => h1.mild.standing (standing_set hx hl),
    h1.mild.tables, fun hp => (Marks.setClaim hp).trans ((Inner.refl _).rebudget.mild.marks (by simp [hp]))⟩, h1.signal, h1.contactor, h1.asleep⟩

/-- A claim changes and the effective budget is recomputed without an examination (R91, R96, R103). -/
theorem setClaim_recompute (h : Inner r s) {b : Bay} {x : ClaimRec} (hx : ClaimOk (s.claim b) x) :
    Inner r (s.setClaim b x).recomputeEffective := by
  have h1 : Inner { s with claims := vset s.claims b x } (s.setClaim b x) := Inner.askVetIf (Inner.markRow (Inner.refl _))
  exact h.trans ⟨⟨h1.mild.outer, h1.mild.grown, h1.mild.quiet, fun _ => rfl, fun hl => h1.mild.standing (standing_set hx hl),
    h1.mild.tables, fun hp => (Marks.setClaim hp).trans (.silent rfl rfl fun _ => rfl)⟩, h1.signal, h1.contactor, h1.asleep⟩

end Inner
end Sys2Proof.Machine
end

