-- ==== Sys2Proof/Laws/InnerBay.lean ====
section
/-! SUPPORT. `Inner` for every act of a block: the lists, claims, clearance endings and contactors. One lemma per definition, by its body. -/

namespace Sys2Proof.Machine.Inner

open Sys2Proof.Safety Sys2Proof.Config

variable {r s : State}

/-! ### Admission -/

theorem noIncrement_ok {c : ClaimRec} (hn : c.noIncrement = true) : ClaimOk c { c with standing := none } := by
  intro _ hh; simp [ClaimRec.noIncrement] at hn; simp [hn] at hh

theorem returnStanding (h : Inner r s) {b : Bay} : Inner r (s.returnStanding b) := by
  unfold State.returnStanding
  dsimp only
  split
  · rename_i hc
    exact h.setClaim_rebudget (noIncrement_ok (by simp only [Bool.and_eq_true] at hc; exact hc.1.2))
  · exact h

theorem without_ok {c : ClaimRec} {p : Purpose} : ClaimOk c (c.without p) := by
  intro hc hh; cases p <;> simp_all [ClaimRec.without]

theorem returnComponent (h : Inner r s) {b : Bay} {p : Purpose} : Inner r (s.returnComponent b p) := by
  unfold State.returnComponent
  split
  · exact (h.setClaim_rebudget without_ok).returnStanding
  · exact h

theorem withdraw (h : Inner r s) {b : Bay} {p : Purpose} : Inner r (s.withdraw b p) := by
  unfold State.withdraw
  try dsimp only
  repeat' (first | with_reducible exact h | with_reducible apply Inner.askAdmission | with_reducible rfl | with_reducible exact Inner.withClaimant_state | split | with_reducible apply Inner.setAdmList)

theorem placeAdm (h : Inner r s) {b : Bay} {p : Purpose} {n : Nat} : Inner r (s.placeAdm b p n) := by
  unfold State.placeAdm
  try dsimp only
  repeat' (first | with_reducible exact h | with_reducible apply Inner.askAdmission | with_reducible rfl | with_reducible exact Inner.withClaimant_state | split | with_reducible apply Inner.setAdmList)

theorem request (h : Inner r s) {b : Bay} {p : Purpose} {n : Option Nat} : Inner r (s.request b p n) := by
  unfold State.request
  try dsimp only
  repeat' (first | with_reducible exact h | with_reducible apply Inner.placeAdm | with_reducible rfl | with_reducible exact Inner.withClaimant_state | split | with_reducible apply Inner.setAdmCounter)

theorem relevelAdm (h : Inner r s)  : Inner r (s.relevelAdm) := by
  unfold State.relevelAdm
  try dsimp only
  repeat' (first | with_reducible exact h | with_reducible apply Inner.askAdmission | with_reducible rfl | with_reducible exact Inner.withClaimant_state | split | with_reducible apply Inner.setAdmList)

theorem relevelClaim (h : Inner r s) {b : Bay} : Inner r (s.relevelClaim b) := by
  unfold State.relevelClaim
  split
  · rename_i x hx
    split
    · exact h
    · exact (h.setClaim (by simp [ClaimRec.total, hx]) (by intro hc _; exact hc (by simp [hx]))).askLoad
  · exact h

/-! ### Channels -/

theorem testReservation (h : Inner r s)  : Inner r (s.testReservation) := by
  unfold State.testReservation
  try dsimp only
  repeat' (first | with_reducible exact h | with_reducible rfl | with_reducible exact Inner.withClaimant_state | split | with_reducible apply Inner.setReserve | with_reducible apply Inner.setReservation | with_reducible apply Inner.setResTimer)

theorem endReservation (h : Inner r s) {b : Bay} {act : Activity} : Inner r (s.endReservation b act) := by
  unfold State.endReservation
  try dsimp only
  repeat' (first | with_reducible exact h | with_reducible apply Inner.askPool | with_reducible rfl | with_reducible exact Inner.withClaimant_state | split | with_reducible apply Inner.setReservation)

theorem removeChan (h : Inner r s) {b : Bay} {act : Activity} : Inner r (s.removeChan b act) := by
  unfold State.removeChan
  try dsimp only
  repeat' (first | with_reducible exact h | with_reducible apply Inner.endReservation | with_reducible apply Inner.testReservation | with_reducible rfl | with_reducible exact Inner.withClaimant_state | split | with_reducible apply Inner.setPoolList)

theorem relevelChans (h : Inner r s) {t : Bay → Bool} : Inner r (s.relevelChans t) := by
  unfold State.relevelChans
  try dsimp only
  repeat' (first | with_reducible exact h | with_reducible apply Inner.testReservation | with_reducible apply Inner.askPool | with_reducible rfl | with_reducible exact Inner.withClaimant_state | split | with_reducible apply Inner.setPoolList)

theorem placeChan (h : Inner r s) {b : Bay} {act : Activity} : Inner r (s.placeChan b act) := by
  unfold State.placeChan
  try dsimp only
  repeat' (first | with_reducible exact h | with_reducible apply Inner.setAct | with_reducible apply Inner.testReservation | with_reducible apply Inner.askPool | with_reducible rfl | with_reducible exact Inner.withClaimant_state | split | with_reducible apply Inner.setPool | with_reducible apply Inner.setPoolList)

/-! ### ClearanceRecord -/

theorem raiseOutcome (h : Inner r s) {b : Bay} {o : ClrOutcome} {reasons : Reasons} {seq : Nat} : Inner r (s.raiseOutcome b o reasons seq) := by
  unfold State.raiseOutcome
  try dsimp only
  repeat' (first | with_reducible exact h | with_reducible apply Inner.raise | with_reducible rfl | with_reducible exact Inner.withClaimant_state | split)

theorem relevelChans_keeps {t : Bay → Bool} : (s.relevelChans t).clr = s.clr ∧ (s.relevelChans t).ctrs = s.ctrs ∧
    (s.relevelChans t).bays = s.bays := by
  unfold State.relevelChans State.testReservation
  dsimp only
  repeat' split
  all_goals exact ⟨rfl, rfl, rfl⟩

theorem raiseOutcome_keeps {b : Bay} {o : ClrOutcome} {x : Reasons} {q : Nat} : (s.raiseOutcome b o x q).clr = s.clr ∧
    (s.raiseOutcome b o x q).ctrs = s.ctrs ∧ (s.raiseOutcome b o x q).bays = s.bays := by
  cases o <;> simp [State.raiseOutcome]

/-- What ending a clearance does to clearances, contactors and exit signals (R183). -/
theorem endClearance_keeps {b : Bay} {o : ClrOutcome} {x : Reasons} :
    (s.endClearance b o x).clr = vset s.clr b ((s.clearance b).endedWith o x s.clockTime) ∧ (s.endClearance b o x).ctrs = s.ctrs ∧
    (s.endClearance b o x).bays = vset s.bays b { s.bay b with proceed := false } := by
  unfold State.endClearance
  dsimp only
  split <;>
    simp [raiseOutcome_keeps.1, raiseOutcome_keeps.2.1, raiseOutcome_keeps.2.2, State.setSignal, State.bay, relevelChans_keeps.1,
      relevelChans_keeps.2.1, relevelChans_keeps.2.2]

theorem endClearance_mild {q : State} (h : Mild q s) {b : Bay} {o : ClrOutcome} {x : Reasons} : Mild q (s.endClearance b o x) := by
  have hl : ∀ u : State, ∀ n, Mild q u → Mild q ((u.setSignal b false).raiseOutcome b o x n) := fun u n hu =>
    (show Mild q (u.setSignal b false) from hu.setBay).inner (Inner.refl _).raiseOutcome
  unfold State.endClearance
  dsimp only
  split
  · exact hl _ _ (h.setClearance.inner (Inner.refl _).relevelChans)
  · exact hl _ _ h.setClearance

/-- The state and the signal of the bays after an ended clearance. -/
theorem endClearance_state {b b' : Bay} {o : ClrOutcome} {x : Reasons} :
    ((s.endClearance b o x).clearance b').state = if b = b' then .none else (s.clearance b').state := by
  simp only [State.clearance, endClearance_keeps.1, vget_vset]
  split <;> rfl

theorem endClearance_proceed {b b' : Bay} {o : ClrOutcome} {x : Reasons} :
    ((s.endClearance b o x).bay b').proceed = if b = b' then false else (s.bay b').proceed := by
  simp only [State.bay, endClearance_keeps.2.2, vget_vset]
  split <;> rfl

theorem endClearance_ctr {b b' : Bay} {o : ClrOutcome} {x : Reasons} : (s.endClearance b o x).ctr b' = s.ctr b' := by
  simp only [State.ctr, endClearance_keeps.2.1]

theorem endClearance (h : Inner r s) {b : Bay} {o : ClrOutcome} {x : Reasons} : Inner r (s.endClearance b o x) := by
  refine h.trans ⟨endClearance_mild (Mild.refl s), ?_, ?_, ?_⟩
  · intro hl b'
    rw [endClearance_proceed, endClearance_state]
    split
    · simp
    · exact hl b'
  · intro hl b'
    rw [endClearance_ctr, endClearance_state]
    split
    · simp [ClrState.needsOpen]
    · exact hl b'
  · intro hl hp b'
    have : (s.endClearance b o x).path = s.path := congrArg Outer.path (endClearance_mild (Mild.refl s)).outer
    rw [this] at hp
    rw [endClearance_state]
    split
    · rfl
    · exact hl hp b'

/-! ### Contactor -/

theorem withClaimant_state {c : Contactor} {p : Purpose} {x : Bool} : (c.withClaimant p x).state = c.state := by cases p <;> rfl

theorem moved_keeps {b b' : Bay} {x : Contactor} {c : Bool} : ((s.setCtr b x).askVetIf b c).clearance b' = s.clearance b' ∧
    ((s.setCtr b x).askVetIf b c).bay b' = s.bay b' ∧ ((s.setCtr b x).askVetIf b c).ctr b' = (if b = b' then x else s.ctr b') := by
  simp [State.clearance, State.bay, State.ctr]

/-- A contactor moves: leaving OPEN ends a CLEARED, SUSPENDED or DEPARTING clearance, so the laws hold (R88, R197). -/
theorem moveCtr (h : Inner r s) {b : Bay} {st : CtrState} {t : Timer} : Inner r (s.moveCtr b st t) := by
  have hm : Mild s ((s.setCtr b { s.ctr b with state := st, limit := t, startUp := false }).askVetIf b ((s.ctr b).state != st)) :=
    (Mild.refl s).setCtr.inner (Inner.refl _).askVetIf
  have hpath := congrArg Outer.path hm.outer
  refine h.trans ?_
  unfold State.moveCtr
  dsimp only
  split
  · refine ⟨endClearance_mild hm, ?_, ?_, ?_⟩
    · intro hl b'
      rw [endClearance_proceed, endClearance_state, moved_keeps.2.1, moved_keeps.1]
      split
      · simp
      · exact hl b'
    · intro hl b'
      rw [endClearance_ctr, endClearance_state, moved_keeps.2.2, moved_keeps.1]
      split
      · simp [ClrState.needsOpen]
      · exact hl b'
    · intro hl hp b'
      have := congrArg Outer.path (endClearance_mild hm (b := b) (o := .revoked) (x := rContactor)).outer
      rw [endClearance_state, moved_keeps.1]
      split
      · rfl
      · exact hl (by rw [← hp]; exact congrArg (fun p => p.reload.isSome) this.symm) b'
  · rename_i hc
    refine ⟨hm, ?_, ?_, ?_⟩
    · intro hl b'; rw [moved_keeps.2.1, moved_keeps.1]; exact hl b'
    · intro hl b'
      rw [moved_keeps.2.2, moved_keeps.1]
      intro hn
      have ho := hl b' hn
      split
      · rename_i hb
        subst hb
        by_cases hst : st = .open
        · exact hst
        · exact absurd (by simp [ho, hst, hn]) hc
      · exact ho
    · intro hl hp b'
      rw [moved_keeps.1]
      exact hl (by rw [← hp]; exact congrArg (fun p => p.reload.isSome) hpath.symm) b'

theorem driveClosed (h : Inner r s) {b : Bay} : Inner r (s.driveClosed b) := by
  unfold State.driveClosed
  try dsimp only
  repeat' (first | with_reducible exact h | with_reducible apply Inner.moveCtr | with_reducible rfl | with_reducible exact Inner.withClaimant_state | split)

theorem openingEnds (h : Inner r s) {b : Bay} : Inner r (s.openingEnds b) := by
  unfold State.openingEnds
  try dsimp only
  repeat' (first | with_reducible exact h | with_reducible apply Inner.moveCtr | with_reducible apply Inner.returnStanding | with_reducible apply Inner.driveClosed | with_reducible rfl | with_reducible exact Inner.withClaimant_state | split)

theorem driveOpen (h : Inner r s) {b : Bay} : Inner r (s.driveOpen b) := by
  unfold State.driveOpen
  try dsimp only
  repeat' (first | with_reducible exact h | with_reducible apply Inner.moveCtr | with_reducible apply Inner.openingEnds | with_reducible rfl | with_reducible exact Inner.withClaimant_state | split)

theorem claimCtr (h : Inner r s) {b : Bay} {p : Purpose} : Inner r (s.claimCtr b p) := by
  unfold State.claimCtr
  try dsimp only
  repeat' (first | with_reducible exact h | with_reducible apply Inner.setCtr | with_reducible apply Inner.driveClosed | with_reducible apply Inner.moveCtr | with_reducible rfl | with_reducible exact Inner.withClaimant_state | split)

theorem releaseCtr (h : Inner r s) {b : Bay} {p : Purpose} : Inner r (s.releaseCtr b p) := by
  unfold State.releaseCtr
  try dsimp only
  repeat' (first | with_reducible exact h | with_reducible apply Inner.setCtr | with_reducible apply Inner.driveOpen | with_reducible rfl | with_reducible exact Inner.withClaimant_state | split)

theorem emptySet (h : Inner r s) {b : Bay} : Inner r (s.emptySet b) := by
  unfold State.emptySet
  try dsimp only
  repeat' (first | with_reducible exact h | with_reducible apply Inner.setCtr | with_reducible rfl | with_reducible exact Inner.withClaimant_state | split)

end Sys2Proof.Machine.Inner
end

