-- ==== Sys2Proof/Laws/InnerChecks.lean ====
section
/-! SUPPORT. `Inner` for every act of a block: heat sessions, the link, fault reads and lamp checks. One lemma per definition, by its body. -/

namespace Sys2Proof.Machine.Inner

open Sys2Proof.Safety Sys2Proof.Config

variable {r s : State}

/-! ### Heat -/

theorem stopCount (h : Inner r s) {b : Bay} : Inner r (s.stopCount b) := by
  unfold State.stopCount
  try dsimp only
  repeat' (first | with_reducible exact h | with_reducible apply Inner.setSession | with_reducible rfl | with_reducible exact Inner.withClaimant_state | split)

theorem dropSupply (h : Inner r s) {b : Bay} : Inner r (s.dropSupply b) := by
  unfold State.dropSupply
  try dsimp only
  repeat' (first | with_reducible exact h | with_reducible apply Inner.releaseCtr | with_reducible apply Inner.returnComponent | with_reducible apply Inner.withdraw | with_reducible rfl | with_reducible exact Inner.withClaimant_state | split)

theorem askSupply (h : Inner r s) {b : Bay} : Inner r (s.askSupply b) := by
  unfold State.askSupply
  try dsimp only
  repeat' (first | with_reducible exact h | with_reducible apply Inner.request | with_reducible apply Inner.setSession | with_reducible rfl | with_reducible exact Inner.withClaimant_state | split)

theorem completeSession (h : Inner r s) {b : Bay} {late : Bool} : Inner r (s.completeSession b late) := by
  unfold State.completeSession
  try dsimp only
  repeat' (first | with_reducible exact h | with_reducible apply Inner.stopCount | with_reducible apply Inner.dropSupply | with_reducible apply Inner.setSession | with_reducible apply Inner.raise | with_reducible rfl | with_reducible exact Inner.withClaimant_state | split)

theorem completeIfFull (h : Inner r s) {b : Bay} : Inner r (s.completeIfFull b) := by
  unfold State.completeIfFull
  try dsimp only
  repeat' (first | with_reducible exact h | with_reducible apply Inner.completeSession | with_reducible rfl | with_reducible exact Inner.withClaimant_state | split)

theorem startTest (h : Inner r s) {b : Bay} : Inner r (s.startTest b) := by
  unfold State.startTest
  try dsimp only
  repeat' (first | with_reducible exact h | with_reducible apply Inner.completeSession | with_reducible apply Inner.setSession | with_reducible apply Inner.askSupply | with_reducible rfl | with_reducible exact Inner.withClaimant_state | split)

theorem zeroTest (h : Inner r s) {b : Bay} : Inner r (s.zeroTest b) := by
  unfold State.zeroTest
  try dsimp only
  repeat' (first | with_reducible exact h | with_reducible apply Inner.completeSession | with_reducible rfl | with_reducible exact Inner.withClaimant_state | split)

theorem recompute (h : Inner r s) {b : Bay} : Inner r (s.recompute b) := by
  unfold State.recompute
  try dsimp only
  repeat' (first | with_reducible exact h | with_reducible apply Inner.setSession | with_reducible apply Inner.startTest | with_reducible apply Inner.zeroTest | with_reducible rfl | with_reducible exact Inner.withClaimant_state | split)

theorem newSession (h : Inner r s) {b : Bay} {ready : Option Nat} : Inner r (s.newSession b ready) := by
  unfold State.newSession
  try dsimp only
  repeat' (first | with_reducible exact h | with_reducible apply Inner.setSession | with_reducible apply Inner.startTest | with_reducible rfl | with_reducible exact Inner.withClaimant_state | split)

theorem enterHeating (h : Inner r s) {b : Bay} : Inner r (s.enterHeating b) := by
  unfold State.enterHeating
  try dsimp only
  repeat' (first | with_reducible exact h | with_reducible apply Inner.setCtr | with_reducible apply Inner.setSession | with_reducible apply Inner.raise | with_reducible rfl | with_reducible exact Inner.withClaimant_state | split)

theorem heatGranted (h : Inner r s) {b : Bay} : Inner r (s.heatGranted b) := by
  unfold State.heatGranted
  try dsimp only
  repeat' (first | with_reducible exact h | with_reducible apply Inner.setSession | with_reducible apply Inner.claimCtr | with_reducible apply Inner.enterHeating | with_reducible apply Inner.returnComponent | with_reducible rfl | with_reducible exact Inner.withClaimant_state | split)

theorem heatRefused (h : Inner r s) {b : Bay} : Inner r (s.heatRefused b) := by
  unfold State.heatRefused
  try dsimp only
  repeat' (first | with_reducible exact h | with_reducible apply Inner.setSession | with_reducible rfl | with_reducible exact Inner.withClaimant_state | split)

theorem heatShed (h : Inner r s) {b : Bay} : Inner r (s.heatShed b) := by
  unfold State.heatShed
  try dsimp only
  repeat' (first | with_reducible exact h | with_reducible apply Inner.stopCount | with_reducible apply Inner.releaseCtr | with_reducible apply Inner.setSession | with_reducible apply Inner.completeIfFull | with_reducible apply Inner.withdraw | with_reducible rfl | with_reducible exact Inner.withClaimant_state | split)

theorem heatPlugOut (h : Inner r s) {b : Bay} : Inner r (s.heatPlugOut b) := by
  unfold State.heatPlugOut
  try dsimp only
  repeat' (first | with_reducible exact h | with_reducible apply Inner.setSession | with_reducible apply Inner.completeIfFull | with_reducible apply Inner.stopCount | with_reducible apply Inner.returnComponent | with_reducible apply Inner.dropSupply | with_reducible rfl | with_reducible exact Inner.withClaimant_state | split)

theorem heatPlugIn (h : Inner r s) {b : Bay} : Inner r (s.heatPlugIn b) := by
  unfold State.heatPlugIn
  try dsimp only
  repeat' (first | with_reducible exact h | with_reducible apply Inner.setSession | with_reducible apply Inner.askSupply | with_reducible apply Inner.startTest | with_reducible rfl | with_reducible exact Inner.withClaimant_state | split)

theorem closeSession (h : Inner r s) {b : Bay} {st : SState} {why : HeatEnd} : Inner r (s.closeSession b st why) := by
  unfold State.closeSession
  try dsimp only
  repeat' (first | with_reducible exact h | with_reducible apply Inner.setSession | with_reducible apply Inner.raise | with_reducible rfl | with_reducible exact Inner.withClaimant_state | split)

theorem heatLost (h : Inner r s) {b : Bay} {why : HeatEnd} : Inner r (s.heatLost b why) := by
  unfold State.heatLost
  try dsimp only
  repeat' (first | with_reducible exact h | with_reducible apply Inner.stopCount | with_reducible apply Inner.returnComponent | with_reducible apply Inner.closeSession | with_reducible rfl | with_reducible exact Inner.withClaimant_state | split)

theorem endSession (h : Inner r s) {b : Bay} {why : HeatEnd} : Inner r (s.endSession b why) := by
  unfold State.endSession
  try dsimp only
  repeat' (first | with_reducible exact h | with_reducible apply Inner.stopCount | with_reducible apply Inner.dropSupply | with_reducible apply Inner.closeSession | with_reducible rfl | with_reducible exact Inner.withClaimant_state | split)

theorem heatAmend (h : Inner r s) {b : Bay} {old : Option Nat} {new : Option Nat} : Inner r (s.heatAmend b old new) := by
  unfold State.heatAmend
  try dsimp only
  repeat' (first | with_reducible exact h | with_reducible apply Inner.endSession | with_reducible apply Inner.newSession | with_reducible apply Inner.setSession | with_reducible apply Inner.recompute | with_reducible rfl | with_reducible exact Inner.withClaimant_state | split)

theorem lateTest (h : Inner r s) {b : Bay} : Inner r (s.lateTest b) := by
  unfold State.lateTest
  try dsimp only
  repeat' (first | with_reducible exact h | with_reducible apply Inner.setSession | with_reducible apply Inner.raise | with_reducible rfl | with_reducible exact Inner.withClaimant_state | split)

theorem askAgain (h : Inner r s) {b : Bay} : Inner r (s.askAgain b) := by
  unfold State.askAgain
  try dsimp only
  repeat' (first | with_reducible exact h | with_reducible apply Inner.askSupply | with_reducible rfl | with_reducible exact Inner.withClaimant_state | split)

theorem heatMinute (h : Inner r s) {b : Bay} : Inner r (s.heatMinute b) := by
  unfold State.heatMinute
  try dsimp only
  repeat' (first | with_reducible exact h | with_reducible apply Inner.zeroTest | with_reducible apply Inner.askAgain | with_reducible apply Inner.startTest | with_reducible apply Inner.lateTest | with_reducible rfl | with_reducible exact Inner.withClaimant_state | split)

/-! ### Link -/

theorem send (h : Inner r s) {ch : LinkIx} {r' : Request} {single : Bool} : Inner r (s.send ch r' single) := by
  unfold State.send
  try dsimp only
  repeat' (first | with_reducible exact h | with_reducible apply Inner.setLink | with_reducible apply Inner.setAct | with_reducible rfl | with_reducible exact Inner.withClaimant_state | split)

theorem nextAttempt (h : Inner r s) {ch : LinkIx} : Inner r (s.nextAttempt ch) := by
  unfold State.nextAttempt
  try dsimp only
  repeat' (first | with_reducible exact h | with_reducible apply Inner.setLink | with_reducible rfl | with_reducible exact Inner.withClaimant_state | split)

theorem openLink (h : Inner r s) {ch : LinkIx} : Inner r (s.openLink ch) := by
  unfold State.openLink
  try dsimp only
  repeat' (first | with_reducible exact h | with_reducible apply Inner.setLink | with_reducible apply Inner.send | with_reducible rfl | with_reducible exact Inner.withClaimant_state | split)

theorem quietLink (h : Inner r s) {ch : LinkIx} : Inner r (s.quietLink ch) := by
  unfold State.quietLink
  try dsimp only
  repeat' (first | with_reducible exact h | with_reducible apply Inner.setLink | with_reducible rfl | with_reducible exact Inner.withClaimant_state | split)

theorem sendFor (h : Inner r s) {b : Bay} {act : Activity} {r' : Request} {single : Bool} : Inner r (s.sendFor b act r' single) := by
  unfold State.sendFor
  try dsimp only
  repeat' (first | with_reducible exact h | with_reducible apply Inner.send | with_reducible rfl | with_reducible exact Inner.withClaimant_state | split)

/-! ### FaultTable -/

theorem scan_all (t : FaultTable) (k : Fin 8) : k ∈ t.scan := by
  have : ∀ p k : Fin 8, p + (k - p) = k := by decide
  exact List.mem_map.2 ⟨k - t.pointer, List.mem_finRange _, this _ _⟩

theorem find_none {t : FaultTable} {p : Option Slot → Bool} (h : t.find p = none) (k : Fin 8) : p (vget t.slots k) = false := by
  simpa using List.find?_eq_none.1 h k (scan_all t k)

theorem find_some {t : FaultTable} {p : Option Slot → Bool} {k : Fin 8} (h : t.find p = some k) : p (vget t.slots k) = true :=
  List.find?_some (p := fun k => p (vget t.slots k)) h

/-- A slot takes a record whose code no other slot carries. -/
theorem distinct_vset {t : FaultTable} {p : Fin 8} {k : Fin 8} {x : Slot} (h : TableDistinct t)
    (hx : ∀ j y, j ≠ k → vget t.slots j = some y → y.code ≠ x.code) : TableDistinct { slots := vset t.slots k (some x), pointer := p } := by
  intro i j a b hi hj hab
  simp only [vget_vset] at hi hj
  by_cases h1 : k = i <;> by_cases h2 : k = j
  · exact h1.symm.trans h2
  · rw [if_pos h1] at hi; rw [if_neg h2] at hj
    cases hi
    exact absurd hab.symm (hx j b (Ne.symm h2) hj)
  · rw [if_neg h1] at hi; rw [if_pos h2] at hj
    cases hj
    exact absurd hab (hx i a (Ne.symm h1) hi)
  · rw [if_neg h1] at hi; rw [if_neg h2] at hj
    exact h i j a b hi hj hab

/-- Merging keeps the codes of a table distinct (R151, R158). -/
theorem distinct_merge {t : FaultTable} (h : TableDistinct t) (x : FaultRecord) (time : Option TimeOfDay) :
    TableDistinct (t.merge x time).1 := by
  unfold FaultTable.merge
  split
  · rename_i k hk
    have := find_some hk
    obtain ⟨y, hy, hc⟩ := (Option.any_eq_true _ _).1 this
    refine distinct_vset h fun j z hj hz hzc => hj ?_
    have hyc : y.code = x.code := by simpa using hc
    exact h j k z y hz hy (by rw [hzc, hyc]; rfl)
  · rename_i hn
    have hfresh : ∀ j y, vget t.slots j = some y → y.code ≠ x.code := by
      intro j y hy hc
      have := find_none hn j
      rw [hy] at this
      simp [hc] at this
    split
    · exact distinct_vset h fun j y _ hy => hfresh j y hy
    · split
      · exact distinct_vset h fun j y _ hy => hfresh j y hy
      · exact h

theorem distinct_keep {t : FaultTable} (h : TableDistinct t) (p : Slot → Bool) : TableDistinct (t.keep p) := by
  intro i j a b hi hj hab
  simp only [FaultTable.keep, vget_map, Option.filter_eq_some_iff] at hi hj
  exact h i j a b hi.1 hj.1 hab

theorem distinct_unmark {t : FaultTable} (h : TableDistinct t) : TableDistinct t.unmark := by
  intro i j a b hi hj hab
  simp only [FaultTable.unmark, vget_map, Option.map_eq_some_iff] at hi hj
  obtain ⟨x, hx, rfl⟩ := hi
  obtain ⟨y, hy, rfl⟩ := hj
  exact h i j x y hx hy hab

theorem shown_unmark (t : FaultTable) : t.unmark.shown = t.shown := by
  simp only [FaultTable.shown, FaultTable.unmark, Vector.toList_map, List.map_map]
  apply List.map_congr_left
  intro o _
  cases o <;> rfl

theorem distinct_empty {p : Fin 8} : TableDistinct { slots := Vector.replicate 8 none, pointer := p } := by
  intro i j a b hi; simp at hi

theorem tables_vset {b : Bay} {t : FaultTable} (ht : TableDistinct (s.table b) → TableDistinct t) (hl : TablesLaw s) :
    TablesLaw { s with tables := vset s.tables b t } := by
  intro b'
  simp only [State.table, vget_vset]
  split
  · exact ht (hl b)
  · exact hl b'

/-- A bay's table is replaced by one with the same carried slots that is distinct if the old one was. -/
theorem tables_set (h : Inner r s) {b : Bay} {t : FaultTable} (hs : t.shown = (s.table b).shown) (ht : TableDistinct (s.table b) → TableDistinct t) :
    Inner r { s with tables := vset s.tables b t } := by
  refine h.trans ⟨⟨rfl, Grown.refl _, fun _ => ⟨rfl, rfl⟩, id, id, tables_vset ht, fun _ => .silent rfl rfl fun b' => ?_⟩, id, id, id⟩
  simp only [State.table, vget_vset]
  split
  · rename_i e; exact e ▸ hs
  · rfl

theorem setTable (h : Inner r s) {b : Bay} {t : FaultTable} (ht : TableDistinct (s.table b) → TableDistinct t) : Inner r (s.setTable b t) := by
  have h1 : Inner { s with tables := vset s.tables b t } (s.setTable b t) := (refl _).markBlock.askVetIf.setSummary
  exact h.trans ⟨⟨h1.mild.outer, h1.mild.grown, h1.mild.quiet, h1.mild.budget, h1.mild.standing, fun hl => h1.mild.tables (tables_vset ht hl),
    fun hp => Marks.setTable hp⟩, h1.signal, h1.contactor, h1.asleep⟩

theorem mergeRecord (h : Inner r s) {b : Bay} {x : FaultRecord} : Inner r (s.mergeRecord b x) := by
  unfold State.mergeRecord
  dsimp only
  split
  · exact (h.setTable fun hd => distinct_merge hd _ _).setSummary.setRead
  · exact h.setTable fun hd => distinct_merge hd _ _

/-- Something done for every member of a list. -/
theorem fold {α : Type} {f : State → α → State} (hf : ∀ u x, Inner r u → Inner r (f u x)) : ∀ (l : List α) (u : State), Inner r u → Inner r (l.foldl f u)
  | [], _, h => h
  | x :: l, u, h => fold hf l _ (hf u x h)

theorem mergePage (h : Inner r s) {b : Bay} {rs : List FaultRecord} : Inner r (s.mergePage b rs) :=
  fold (fun _ _ hu => hu.mergeRecord) _ _ h

theorem startPages (h : Inner r s) {b : Bay} {n : Nat} : Inner r (s.startPages b n) := by
  unfold State.startPages
  exact (h.setSummary.tables_set (shown_unmark _) distinct_unmark).setRead

theorem completeRead (h : Inner r s) {b : Bay} {x y : Bool} : Inner r (s.completeRead b x y) := by
  unfold State.completeRead
  exact (h.setTable fun hd => distinct_keep hd _).setSummary

theorem recordFault (h : Inner r s) {b : Bay} {code : EndCode} : Inner r (s.recordFault b code) := by
  unfold State.recordFault
  try dsimp only
  repeat' (first | with_reducible exact h | with_reducible apply Inner.setSummary | with_reducible apply Inner.raise | with_reducible apply Inner.askVet | with_reducible rfl | with_reducible exact Inner.withClaimant_state | split)

theorem emptyFaults (h : Inner r s) {b : Bay} : Inner r (s.emptyFaults b) := by
  unfold State.emptyFaults
  exact (h.setTable fun _ => distinct_empty).setSummary

/-! ### LampRecord -/

theorem recordLamp (h : Inner r s) {b : Bay} {code : EndCode} : Inner r (s.recordLamp b code) := by
  unfold State.recordLamp
  try dsimp only
  repeat' (first | with_reducible exact h | with_reducible apply Inner.setLampResult | with_reducible apply Inner.raise | with_reducible apply Inner.askVet | with_reducible rfl | with_reducible exact Inner.withClaimant_state | split)

theorem recordJudgement (h : Inner r s) {b : Bay} {j : Judged} : Inner r (s.recordJudgement b j) := by
  unfold State.recordJudgement
  try dsimp only
  repeat' (first | with_reducible exact h | with_reducible apply Inner.setLampResult | with_reducible rfl | with_reducible exact Inner.withClaimant_state | split)

theorem lampGiveUp (h : Inner r s) {b : Bay} : Inner r (s.lampGiveUp b) := by
  unfold State.lampGiveUp
  try dsimp only
  repeat' (first | with_reducible exact h | with_reducible apply Inner.releaseCtr | with_reducible apply Inner.returnComponent | with_reducible apply Inner.setLampWork | with_reducible rfl | with_reducible exact Inner.withClaimant_state | split)

theorem emptyLampResult (h : Inner r s) {b : Bay} : Inner r (s.emptyLampResult b) := by
  unfold State.emptyLampResult
  try dsimp only
  repeat' (first | with_reducible exact h | with_reducible apply Inner.setLampResult | with_reducible rfl | with_reducible exact Inner.withClaimant_state | split)

/-! ### Pool -/

theorem lampToLink (h : Inner r s) {b : Bay} : Inner r (s.lampToLink b) := by
  unfold State.lampToLink
  try dsimp only
  repeat' (first | with_reducible exact h | with_reducible apply Inner.setLampWork | with_reducible apply Inner.openLink | with_reducible rfl | with_reducible exact Inner.withClaimant_state | split)

theorem lampRunning (h : Inner r s) {b : Bay} : Inner r (s.lampRunning b) := by
  unfold State.lampRunning
  try dsimp only
  repeat' (first | with_reducible exact h | with_reducible apply Inner.setLampWork | with_reducible apply Inner.lampToLink | with_reducible rfl | with_reducible exact Inner.withClaimant_state | split)

theorem takeLampChannel (h : Inner r s) {b : Bay} : Inner r (s.takeLampChannel b) := by
  unfold State.takeLampChannel
  try dsimp only
  repeat' (first | with_reducible exact h | with_reducible apply Inner.setLampCh | with_reducible rfl | with_reducible exact Inner.withClaimant_state | split)

theorem grantChannels (h : Inner r s) {b : Bay} {act : Activity} {ch : LinkIx} : Inner r (s.grantChannels b act ch) := by
  unfold State.grantChannels
  try dsimp only
  repeat' (first | with_reducible exact h | with_reducible apply Inner.removeChan | with_reducible apply Inner.setLink | with_reducible apply Inner.takeLampChannel | with_reducible apply Inner.setAct | with_reducible apply Inner.lampRunning | with_reducible apply Inner.openLink | with_reducible rfl | with_reducible exact Inner.withClaimant_state | split)

theorem testEntry (h : Inner r s) {e : CEntry} : Inner r (s.testEntry e) := by
  unfold State.testEntry
  try dsimp only
  repeat' (first | with_reducible exact h | with_reducible apply Inner.grantChannels | with_reducible rfl | with_reducible exact Inner.withClaimant_state | split)

theorem examineChannels (h : Inner r s) : Inner r s.examineChannels := fold (fun _ _ hu => hu.testEntry) _ _ h

theorem freeLampChannel (h : Inner r s) {b : Bay} : Inner r (s.freeLampChannel b) := by
  unfold State.freeLampChannel
  try dsimp only
  repeat' (first | with_reducible exact h | with_reducible apply Inner.setLampCh | with_reducible apply Inner.setLampWork | with_reducible rfl | with_reducible exact Inner.withClaimant_state | split)

theorem freeLinkChannel (h : Inner r s) {b : Bay} {act : Activity} : Inner r (s.freeLinkChannel b act) := by
  unfold State.freeLinkChannel
  try dsimp only
  repeat' (first | with_reducible exact h | with_reducible apply Inner.setLink | with_reducible rfl | with_reducible exact Inner.withClaimant_state | split)

theorem releaseChannels (h : Inner r s) {b : Bay} {act : Activity} : Inner r (s.releaseChannels b act) := by
  unfold State.releaseChannels
  try dsimp only
  repeat' (first | with_reducible exact h | with_reducible apply Inner.freeLinkChannel | with_reducible apply Inner.freeLampChannel | with_reducible apply Inner.setAct | with_reducible apply Inner.askPool | with_reducible rfl | with_reducible exact Inner.withClaimant_state | split)

theorem ownerEnds (h : Inner r s) {b : Bay} {act : Activity} {code : EndCode} : Inner r (s.ownerEnds b act code) := by
  unfold State.ownerEnds
  try dsimp only
  repeat' (first | with_reducible exact h | with_reducible apply Inner.lampGiveUp | with_reducible apply Inner.recordLamp | with_reducible apply Inner.recordFault | with_reducible rfl | with_reducible exact Inner.withClaimant_state | split)

theorem endWaiting (h : Inner r s) {b : Bay} {act : Activity} {code : EndCode} : Inner r (s.endWaiting b act code) := by
  unfold State.endWaiting
  try dsimp only
  repeat' (first | with_reducible exact h | with_reducible apply Inner.removeChan | with_reducible apply Inner.withdraw | with_reducible apply Inner.ownerEnds | with_reducible apply Inner.setLampWork | with_reducible apply Inner.setAct | with_reducible rfl | with_reducible exact Inner.withClaimant_state | split)

theorem leaveStep (h : Inner r s) {b : Bay} {act : Activity} : Inner r (s.leaveStep b act) := by
  unfold State.leaveStep
  try dsimp only
  repeat' (first | with_reducible exact h | with_reducible apply Inner.setLampWork | with_reducible rfl | with_reducible exact Inner.withClaimant_state | split)

theorem handOver (h : Inner r s) {b : Bay} {closing : Activity} {ch : LinkIx} : Inner r (s.handOver b closing ch) := by
  unfold State.handOver
  try dsimp only
  repeat' (first | with_reducible exact h | with_reducible apply Inner.freeLampChannel | with_reducible apply Inner.setAct | with_reducible apply Inner.grantChannels | with_reducible apply Inner.askPool | with_reducible rfl | with_reducible exact Inner.withClaimant_state | split)

theorem closingStep (h : Inner r s) {b : Bay} {act : Activity} {code : EndCode} : Inner r (s.closingStep b act code) := by
  unfold State.closingStep
  try dsimp only
  repeat' (first | with_reducible exact h | with_reducible apply Inner.ownerEnds | with_reducible apply Inner.leaveStep | with_reducible apply Inner.setAct | with_reducible apply Inner.quietLink | with_reducible apply Inner.releaseChannels | with_reducible apply Inner.handOver | with_reducible apply Inner.send | with_reducible rfl | with_reducible exact Inner.withClaimant_state | split)

theorem orderlyRelease (h : Inner r s) {b : Bay} {act : Activity} : Inner r (s.orderlyRelease b act) := by
  unfold State.orderlyRelease
  try dsimp only
  repeat' (first | with_reducible exact h | with_reducible apply Inner.ownerEnds | with_reducible apply Inner.releaseChannels | with_reducible rfl | with_reducible exact Inner.withClaimant_state | split)

theorem orderlyNext (h : Inner r s) {b : Bay} {act : Activity} {failed : Bool} : Inner r (s.orderlyNext b act failed) := by
  unfold State.orderlyNext
  try dsimp only
  repeat' (first | with_reducible exact h | with_reducible apply Inner.orderlyRelease | with_reducible apply Inner.sendFor | with_reducible rfl | with_reducible exact Inner.withClaimant_state | split)

theorem offEnded (h : Inner r s) {b : Bay} {o : Request} : Inner r (s.offEnded b o) := by
  unfold State.offEnded
  try dsimp only
  repeat' (first | with_reducible exact h | with_reducible apply Inner.setLampWork | with_reducible rfl | with_reducible exact Inner.withClaimant_state | split)

theorem unask (h : Inner r s) {ch : LinkIx} : Inner r (s.unask ch) := by
  unfold State.unask
  try dsimp only
  repeat' (first | with_reducible exact h | with_reducible apply Inner.setLink | with_reducible rfl | with_reducible exact Inner.withClaimant_state | split)

theorem stopExchange (h : Inner r s) {b : Bay} {act : Activity} {ch : LinkIx} {x : Exchange} : Inner r (s.stopExchange b act ch x) := by
  unfold State.stopExchange
  try dsimp only
  repeat' (first | with_reducible exact h | with_reducible apply Inner.unask | with_reducible apply Inner.quietLink | with_reducible apply Inner.offEnded | with_reducible apply Inner.orderlyNext | with_reducible rfl | with_reducible exact Inner.withClaimant_state | split)

theorem endWake (h : Inner r s) {ch : LinkIx} : Inner r (s.endWake ch) := by
  unfold State.endWake
  try dsimp only
  repeat' (first | with_reducible exact h | with_reducible apply Inner.setLink | with_reducible rfl | with_reducible exact Inner.withClaimant_state | split)

theorem stopOrderly (h : Inner r s) {b : Bay} {act : Activity} : Inner r (s.stopOrderly b act) := by
  unfold State.stopOrderly
  try dsimp only
  repeat' (first | with_reducible exact h | with_reducible apply Inner.setAct | with_reducible apply Inner.leaveStep | with_reducible apply Inner.endWake | with_reducible apply Inner.stopExchange | with_reducible apply Inner.orderlyNext | with_reducible rfl | with_reducible exact Inner.withClaimant_state | split)

theorem orderlyStop (h : Inner r s) {b : Bay} {act : Activity} {previous : Bool} : Inner r (s.orderlyStop b act previous) := by
  unfold State.orderlyStop
  try dsimp only
  repeat' (first | with_reducible exact h | with_reducible apply Inner.setAct | with_reducible apply Inner.endWaiting | with_reducible apply Inner.stopOrderly | with_reducible rfl | with_reducible exact Inner.withClaimant_state | split)

theorem dropLink (h : Inner r s) {b : Bay} {act : Activity} {why : Option EndCode} : Inner r (s.dropLink b act why) := by
  unfold State.dropLink
  try dsimp only
  repeat' (first | with_reducible exact h | with_reducible apply Inner.setLink | with_reducible apply Inner.setAct | with_reducible apply Inner.releaseChannels | with_reducible rfl | with_reducible exact Inner.withClaimant_state | split)

theorem immediateStop (h : Inner r s) {b : Bay} {act : Activity} {code : EndCode} : Inner r (s.immediateStop b act code) := by
  unfold State.immediateStop
  try dsimp only
  repeat' (first | with_reducible exact h | with_reducible apply Inner.endWaiting | with_reducible apply Inner.ownerEnds | with_reducible apply Inner.leaveStep | with_reducible apply Inner.dropLink | with_reducible rfl | with_reducible exact Inner.withClaimant_state | split)

/-! ### Procedure -/

theorem wakeAgain (h : Inner r s) {ch : LinkIx} {began : Nat} : Inner r (s.wakeAgain ch began) := by
  unfold State.wakeAgain
  try dsimp only
  repeat' (first | with_reducible exact h | with_reducible apply Inner.send | with_reducible apply Inner.setLink | with_reducible rfl | with_reducible exact Inner.withClaimant_state | split)

theorem wakeEnded (h : Inner r s) {b : Bay} {act : Activity} {ch : LinkIx} {began : Nat} {o : ExchEnd} : Inner r (s.wakeEnded b act ch began o) := by
  unfold State.wakeEnded
  try dsimp only
  repeat' (first | with_reducible exact h | with_reducible apply Inner.setLink | with_reducible apply Inner.send | with_reducible apply Inner.wakeAgain | with_reducible apply Inner.closingStep | with_reducible rfl | with_reducible exact Inner.withClaimant_state | split)

theorem setSeen (h : Inner r s) {b : Bay} {act : Activity} {id code : Nat} : Inner r (s.setSeen b act id code) := by
  unfold State.setSeen
  split
  · exact h
  · refine Inner.askVet (Inner.setBay h ?_)
    exact fun hp => Or.inl hp

theorem enterBaseline (h : Inner r s) {b : Bay} : Inner r (s.enterBaseline b) := by
  unfold State.enterBaseline
  try dsimp only
  repeat' (first | with_reducible exact h | with_reducible apply Inner.setLampWork | with_reducible rfl | with_reducible exact Inner.withClaimant_state | split)

theorem identPassed (h : Inner r s) {b : Bay} {act : Activity} {ch : LinkIx} {total : Nat} : Inner r (s.identPassed b act ch total) := by
  unfold State.identPassed
  try dsimp only
  repeat' (first | with_reducible exact h | with_reducible apply Inner.startPages | with_reducible apply Inner.send | with_reducible apply Inner.enterBaseline | with_reducible rfl | with_reducible exact Inner.withClaimant_state | split)

theorem identEnded (h : Inner r s) {b : Bay} {act : Activity} {ch : LinkIx} {o : ExchEnd} : Inner r (s.identEnded b act ch o) := by
  unfold State.identEnded
  try dsimp only
  repeat' (first | with_reducible exact h | with_reducible apply Inner.setSeen | with_reducible apply Inner.identPassed | with_reducible apply Inner.closingStep | with_reducible rfl | with_reducible exact Inner.withClaimant_state | split)

theorem pageTest (h : Inner r s) {b : Bay} {ch : LinkIx} {n : Nat} {more : Bool} : Inner r (s.pageTest b ch n more) := by
  unfold State.pageTest
  try dsimp only
  repeat' (first | with_reducible exact h | with_reducible apply Inner.setRead | with_reducible apply Inner.send | with_reducible apply Inner.completeRead | with_reducible apply Inner.closingStep | with_reducible rfl | with_reducible exact Inner.withClaimant_state | split)

theorem pageEnded (h : Inner r s) {b : Bay} {ch : LinkIx} {n : Nat} {o : ExchEnd} : Inner r (s.pageEnded b ch n o) := by
  unfold State.pageEnded
  try dsimp only
  repeat' (first | with_reducible exact h | with_reducible apply Inner.mergePage | with_reducible apply Inner.pageTest | with_reducible apply Inner.closingStep | with_reducible rfl | with_reducible exact Inner.withClaimant_state | split)

theorem eraseEnded (h : Inner r s) {b : Bay} {o : ExchEnd} : Inner r (s.eraseEnded b o) := by
  unfold State.eraseEnded
  try dsimp only
  repeat' (first | with_reducible exact h | with_reducible apply Inner.completeRead | with_reducible apply Inner.closingStep | with_reducible rfl | with_reducible exact Inner.withClaimant_state | split)

theorem enterGroup (h : Inner r s) {b : Bay} {g : Group} : Inner r (s.enterGroup b g) := by
  unfold State.enterGroup
  try dsimp only
  repeat' (first | with_reducible exact h | with_reducible apply Inner.setLampWork | with_reducible apply Inner.sendFor | with_reducible rfl | with_reducible exact Inner.withClaimant_state | split)

theorem judgeCheck (h : Inner r s) {b : Bay} : Inner r (s.judgeCheck b) := by
  unfold State.judgeCheck
  try dsimp only
  repeat' (first | with_reducible exact h | with_reducible apply Inner.recordJudgement | with_reducible apply Inner.closingStep | with_reducible rfl | with_reducible exact Inner.withClaimant_state | split)

theorem groupFrom (h : Inner r s) {b : Bay} {n : Nat} : Inner r (s.groupFrom b n) := by
  unfold State.groupFrom
  try dsimp only
  repeat' (first | with_reducible exact h | with_reducible apply Inner.enterGroup | with_reducible apply Inner.judgeCheck | with_reducible rfl | with_reducible exact Inner.withClaimant_state | split)

theorem lampEnded (h : Inner r s) {b : Bay} {on : Bool} {o : ExchEnd} : Inner r (s.lampEnded b on o) := by
  unfold State.lampEnded
  try dsimp only
  repeat' (first | with_reducible exact h | with_reducible apply Inner.setLampWork | with_reducible apply Inner.closingStep | with_reducible rfl | with_reducible exact Inner.withClaimant_state | split)

theorem afterLoss (h : Inner r s) {b : Bay} : Inner r (s.afterLoss b) := by
  unfold State.afterLoss
  try dsimp only
  repeat' (first | with_reducible exact h | with_reducible apply Inner.sendFor | with_reducible apply Inner.closingStep | with_reducible rfl | with_reducible exact Inner.withClaimant_state | split)

theorem seenOnly (h : Inner r s) {b : Bay} {act : Activity} {o : ExchEnd} : Inner r (s.seenOnly b act o) := by
  unfold State.seenOnly
  try dsimp only
  repeat' (first | with_reducible exact h | with_reducible apply Inner.setSeen | with_reducible rfl | with_reducible exact Inner.withClaimant_state | split)

theorem lossEnded (h : Inner r s) {b : Bay} {x : Exchange} {o : ExchEnd} : Inner r (s.lossEnded b x o) := by
  unfold State.lossEnded
  try dsimp only
  repeat' (first | with_reducible exact h | with_reducible apply Inner.closingStep | with_reducible apply Inner.seenOnly | with_reducible apply Inner.offEnded | with_reducible apply Inner.request | with_reducible apply Inner.afterLoss | with_reducible rfl | with_reducible exact Inner.withClaimant_state | split)

theorem lampSupplyLoss (h : Inner r s) {b : Bay} : Inner r (s.lampSupplyLoss b) := by
  unfold State.lampSupplyLoss
  try dsimp only
  repeat' (first | with_reducible exact h | with_reducible apply Inner.returnComponent | with_reducible apply Inner.setLampWork | with_reducible apply Inner.afterLoss | with_reducible rfl | with_reducible exact Inner.withClaimant_state | split)

theorem orderlyEnded (h : Inner r s) {b : Bay} {act : Activity} {x : Exchange} {o : ExchEnd} : Inner r (s.orderlyEnded b act x o) := by
  unfold State.orderlyEnded
  try dsimp only
  repeat' (first | with_reducible exact h | with_reducible apply Inner.request | with_reducible apply Inner.orderlyRelease | with_reducible apply Inner.seenOnly | with_reducible apply Inner.offEnded | with_reducible apply Inner.orderlyNext | with_reducible rfl | with_reducible exact Inner.withClaimant_state | split)

theorem procedureEnded (h : Inner r s) {b : Bay} {act : Activity} {ch : LinkIx} {x : Exchange} {o : ExchEnd} : Inner r (s.procedureEnded b act ch x o) := by
  unfold State.procedureEnded
  try dsimp only
  repeat' (first | with_reducible exact h | with_reducible apply Inner.request | with_reducible apply Inner.wakeEnded | with_reducible apply Inner.identEnded | with_reducible apply Inner.pageEnded | with_reducible apply Inner.eraseEnded | with_reducible apply Inner.lampEnded | with_reducible apply Inner.releaseChannels | with_reducible rfl | with_reducible exact Inner.withClaimant_state | split)

theorem exchangeEnded (h : Inner r s) {ch : LinkIx} {x : Exchange} {o : ExchEnd} : Inner r (s.exchangeEnded ch x o) := by
  unfold State.exchangeEnded
  try dsimp only
  repeat' (first | with_reducible exact h | with_reducible apply Inner.setLink | with_reducible apply Inner.releaseChannels | with_reducible apply Inner.orderlyEnded | with_reducible apply Inner.lossEnded | with_reducible apply Inner.procedureEnded | with_reducible rfl | with_reducible exact Inner.withClaimant_state | split)

theorem frameSent (h : Inner r s) {ch : LinkIx} : Inner r (s.frameSent ch) := by
  unfold State.frameSent
  try dsimp only
  repeat' (first | with_reducible exact h | with_reducible apply Inner.releaseChannels | with_reducible apply Inner.setLink | with_reducible rfl | with_reducible exact Inner.withClaimant_state | split)

theorem busyReply (h : Inner r s) {ch : LinkIx} {x : Exchange} : Inner r (s.busyReply ch x) := by
  unfold State.busyReply
  try dsimp only
  repeat' (first | with_reducible exact h | with_reducible apply Inner.exchangeEnded | with_reducible apply Inner.setLink | with_reducible rfl | with_reducible exact Inner.withClaimant_state | split)

theorem replyExpired (h : Inner r s) {ch : LinkIx} {x : Exchange} : Inner r (s.replyExpired ch x) := by
  unfold State.replyExpired
  try dsimp only
  repeat' (first | with_reducible exact h | with_reducible apply Inner.exchangeEnded | with_reducible apply Inner.nextAttempt | with_reducible rfl | with_reducible exact Inner.withClaimant_state | split)

theorem replied (h : Inner r s) {ch : LinkIx} {x : Exchange} {o : Reply} : Inner r (s.replied ch x o) := by
  unfold State.replied
  try dsimp only
  repeat' (first | with_reducible exact h | with_reducible apply Inner.busyReply | with_reducible apply Inner.exchangeEnded | with_reducible rfl | with_reducible exact Inner.withClaimant_state | split)

theorem receive (h : Inner r s) {ch : LinkIx} {input : List LineByte} : Inner r (s.receive ch input) := by
  unfold State.receive
  try dsimp only
  repeat' (first | with_reducible exact h | with_reducible apply Inner.setLink | with_reducible apply Inner.replied | with_reducible rfl | with_reducible exact Inner.withClaimant_state | split)

theorem receiveFrame (h : Inner r s) {ch : LinkIx} {frame : List Byte} : Inner r (s.receiveFrame ch frame) := h.receive

theorem pauseOver (h : Inner r s) {ch : LinkIx} : Inner r (s.pauseOver ch) := by
  unfold State.pauseOver
  try dsimp only
  repeat' (first | with_reducible exact h | with_reducible apply Inner.setLink | with_reducible apply Inner.send | with_reducible rfl | with_reducible exact Inner.withClaimant_state | split)

theorem wakeOver (h : Inner r s) {ch : LinkIx} : Inner r (s.wakeOver ch) := by
  unfold State.wakeOver
  try dsimp only
  repeat' (first | with_reducible exact h | with_reducible apply Inner.setLink | with_reducible apply Inner.closingStep | with_reducible rfl | with_reducible exact Inner.withClaimant_state | split)

theorem lampClosed (h : Inner r s) {b : Bay} : Inner r (s.lampClosed b) := by
  unfold State.lampClosed
  try dsimp only
  repeat' (first | with_reducible exact h | with_reducible apply Inner.setLampWork | with_reducible apply Inner.lampToLink | with_reducible rfl | with_reducible exact Inner.withClaimant_state | split)

theorem lampLost (h : Inner r s) {b : Bay} : Inner r (s.lampLost b) := by
  unfold State.lampLost
  try dsimp only
  repeat' (first | with_reducible exact h | with_reducible apply Inner.endWaiting | with_reducible apply Inner.lampSupplyLoss | with_reducible apply Inner.returnComponent | with_reducible apply Inner.setLampWork | with_reducible rfl | with_reducible exact Inner.withClaimant_state | split)

theorem lampGranted (h : Inner r s) {b : Bay} : Inner r (s.lampGranted b) := by
  unfold State.lampGranted
  try dsimp only
  repeat' (first | with_reducible exact h | with_reducible apply Inner.claimCtr | with_reducible apply Inner.lampClosed | with_reducible apply Inner.placeChan | with_reducible apply Inner.endWaiting | with_reducible apply Inner.returnComponent | with_reducible rfl | with_reducible exact Inner.withClaimant_state | split)

theorem lampRefused (h : Inner r s) {b : Bay} : Inner r (s.lampRefused b) := by
  unfold State.lampRefused
  try dsimp only
  repeat' (first | with_reducible exact h | with_reducible apply Inner.endWaiting | with_reducible rfl | with_reducible exact Inner.withClaimant_state | split)

theorem beginLamp (h : Inner r s) {b : Bay} {origin : Origin} : Inner r (s.beginLamp b origin) := by
  unfold State.beginLamp
  try dsimp only
  repeat' (first | with_reducible exact h | with_reducible apply Inner.setLampWork | with_reducible apply Inner.setAct | with_reducible apply Inner.lampRefused | with_reducible apply Inner.request | with_reducible apply Inner.lampGranted | with_reducible rfl | with_reducible exact Inner.withClaimant_state | split)

theorem beginFault (h : Inner r s) {b : Bay} {v : Variant} {origin : Origin} : Inner r (s.beginFault b v origin) := by
  unfold State.beginFault
  try dsimp only
  repeat' (first | with_reducible exact h | with_reducible apply Inner.setAct | with_reducible apply Inner.placeChan | with_reducible rfl | with_reducible exact Inner.withClaimant_state | split)

theorem baselineOver (h : Inner r s) {b : Bay} : Inner r (s.baselineOver b) := by
  unfold State.baselineOver
  try dsimp only
  repeat' (first | with_reducible exact h | with_reducible apply Inner.setLampWork | with_reducible apply Inner.closingStep | with_reducible apply Inner.groupFrom | with_reducible rfl | with_reducible exact Inner.withClaimant_state | split)

theorem onWindowOver (h : Inner r s) {b : Bay} : Inner r (s.onWindowOver b) := by
  unfold State.onWindowOver
  try dsimp only
  repeat' (first | with_reducible exact h | with_reducible apply Inner.setLampWork | with_reducible apply Inner.sendFor | with_reducible rfl | with_reducible exact Inner.withClaimant_state | split)

theorem offWindowOver (h : Inner r s) {b : Bay} : Inner r (s.offWindowOver b) := by
  unfold State.offWindowOver
  try dsimp only
  repeat' (first | with_reducible exact h | with_reducible apply Inner.setLampWork | with_reducible apply Inner.groupFrom | with_reducible rfl | with_reducible exact Inner.withClaimant_state | split)

theorem sensorTaken (h : Inner r s) {lc : LampIx} {k : Sensor} {b : Bay} : Inner r (s.sensorTaken lc k b) := by
  unfold State.sensorTaken
  try dsimp only
  repeat' (first | with_reducible exact h | with_reducible apply Inner.setLampCh | with_reducible apply Inner.setLampWork | with_reducible rfl | with_reducible exact Inner.withClaimant_state | split)

end Sys2Proof.Machine.Inner
end

