-- ==== Sys2Proof/Laws/Rest.lean ====
section
/-! SUPPORT. `Rest b r s`: an act that leaves the clearance of a bay alone, moving its contactor only if that is not OPEN. It holds of every
act by which a vetting's waiver and a beginning bar withdraw what a bay asked for (R99, R186). -/

namespace Sys2Proof.Machine

open Sys2Proof.Config

/-- A clearance in NONE stays so; with the contactor OPEN the clearance does not change and the contactor stays OPEN. -/
structure Rest (b : Bay) (r s : State) : Prop where
  idle : (r.clearance b).state = .none → (s.clearance b).state = .none
  still : (r.ctr b).state = .open → (s.ctr b).state = .open ∧ s.clearance b = r.clearance b

namespace Rest

variable {b : Bay} {r s : State}

theorem refl (b : Bay) (s : State) : Rest b s s := ⟨id, fun h => ⟨h, rfl⟩⟩

theorem keep (h : Rest b r s) {u : State} (hk : u.ctrs = s.ctrs) (hr : u.clr = s.clr) : Rest b r u := by
  have e1 : u.clearance b = s.clearance b := by simp only [State.clearance, hr]
  have e2 : u.ctr b = s.ctr b := by simp only [State.ctr, hk]
  exact ⟨by rw [e1]; exact h.idle, by rw [e1, e2]; exact h.still⟩

theorem askAdmission (h : Rest b r s)  : Rest b r (s.askAdmission) := h.keep (by simp) (by simp)
theorem askLoad (h : Rest b r s) {x y : Bool} : Rest b r (s.askLoad x y) := h.keep (by simp) (by simp)
theorem askPool (h : Rest b r s)  : Rest b r (s.askPool) := h.keep (by simp) (by simp)
theorem askVet (h : Rest b r s) {b1 : Bay} : Rest b r (s.askVet b1) := h.keep (by simp) (by simp)
theorem askVetIf (h : Rest b r s) {b1 : Bay} {c : Bool} : Rest b r (s.askVetIf b1 c) := h.keep (by simp) (by simp)
theorem setSession (h : Rest b r s) {b1 : Bay} {x : Session} : Rest b r (s.setSession b1 x) := h.keep (by simp) (by simp)
theorem setAct (h : Rest b r s) {b1 : Bay} {act : Activity} {x : ActRec} : Rest b r (s.setAct b1 act x) := h.keep (by simp) (by simp)
theorem setLampWork (h : Rest b r s) {b1 : Bay} {x : LampWork} : Rest b r (s.setLampWork b1 x) := h.keep (by simp) (by simp)
theorem setLampResult (h : Rest b r s) {b1 : Bay} {x : LampResult} : Rest b r (s.setLampResult b1 x) := h.keep (by simp) (by simp)
theorem setSummary (h : Rest b r s) {b1 : Bay} {x : FaultSummary} : Rest b r (s.setSummary b1 x) := h.keep (by simp) (by simp)
theorem setClaim (h : Rest b r s) {b1 : Bay} {x : ClaimRec} : Rest b r (s.setClaim b1 x) := h.keep (by simp) (by simp)
theorem raise (h : Rest b r s) {k : Kind} {o : Option Bay} {d q : Nat} : Rest b r (s.raise k o d q) := h.keep (by simp) (by simp)
theorem setAdmList (h : Rest b r s) {x : List AEntry} : Rest b r { s with admList := x } := h.keep rfl rfl
theorem setPoolList (h : Rest b r s) {x : List CEntry} : Rest b r { s with poolList := x } := h.keep rfl rfl
theorem setReservation (h : Rest b r s) {x : Option Bay} : Rest b r { s with reservation := x } := h.keep rfl rfl
theorem setResTimer (h : Rest b r s) {x : Option (Bay × Nat)} : Rest b r { s with resTimer := x } := h.keep rfl rfl
theorem setReserve (h : Rest b r s) {x : Option Bay} {y : Option (Bay × Nat)} : Rest b r { s with reservation := x, resTimer := y } := h.keep rfl rfl
theorem rebudget (h : Rest b r s) {t : Nat} : Rest b r (s.rebudget t) := by
  unfold State.rebudget; dsimp only
  split <;> exact h.keep (by simp) (by simp)
theorem setCtr (h : Rest b r s) {b1 : Bay} {x : Contactor} (hx : x.state = (s.ctr b1).state) : Rest b r (s.setCtr b1 x) := by
  have hc : ((s.setCtr b1 x).ctr b).state = (s.ctr b).state := by
    by_cases hb : b1 = b
    · subst hb; simpa [State.ctr] using hx
    · simp [State.ctr, hb]
  have hr : (s.setCtr b1 x).clearance b = s.clearance b := by simp [State.clearance]
  refine ⟨?_, ?_⟩
  · rw [hr]; exact h.idle
  · rw [hr, hc]; exact h.still

theorem returnStanding (h : Rest b r s) {b1 : Bay} : Rest b r (s.returnStanding b1) := by
  unfold State.returnStanding
  try dsimp only
  repeat' (first | with_reducible exact h | with_reducible apply Rest.setClaim | with_reducible apply Rest.rebudget | with_reducible rfl | with_reducible exact Inner.withClaimant_state | split)

theorem returnComponent (h : Rest b r s) {b1 : Bay} {p : Purpose} : Rest b r (s.returnComponent b1 p) := by
  unfold State.returnComponent
  try dsimp only
  repeat' (first | with_reducible exact h | with_reducible apply Rest.setClaim | with_reducible apply Rest.rebudget | with_reducible apply Rest.returnStanding | with_reducible rfl | with_reducible exact Inner.withClaimant_state | split)

theorem withdraw (h : Rest b r s) {b1 : Bay} {p : Purpose} : Rest b r (s.withdraw b1 p) := by
  unfold State.withdraw
  try dsimp only
  repeat' (first | with_reducible exact h | with_reducible apply Rest.askAdmission | with_reducible rfl | with_reducible exact Inner.withClaimant_state | split | with_reducible apply Rest.setAdmList)

theorem testReservation (h : Rest b r s)  : Rest b r (s.testReservation) := by
  unfold State.testReservation
  try dsimp only
  repeat' (first | with_reducible exact h | with_reducible rfl | with_reducible exact Inner.withClaimant_state | split | with_reducible apply Rest.setReserve | with_reducible apply Rest.setReservation | with_reducible apply Rest.setResTimer)

theorem endReservation (h : Rest b r s) {b1 : Bay} {act : Activity} : Rest b r (s.endReservation b1 act) := by
  unfold State.endReservation
  try dsimp only
  repeat' (first | with_reducible exact h | with_reducible apply Rest.askPool | with_reducible rfl | with_reducible exact Inner.withClaimant_state | split | with_reducible apply Rest.setReservation)

theorem removeChan (h : Rest b r s) {b1 : Bay} {act : Activity} : Rest b r (s.removeChan b1 act) := by
  unfold State.removeChan
  try dsimp only
  repeat' (first | with_reducible exact h | with_reducible apply Rest.endReservation | with_reducible apply Rest.testReservation | with_reducible rfl | with_reducible exact Inner.withClaimant_state | split | with_reducible apply Rest.setPoolList)

theorem relevelChans (h : Rest b r s) {t : Bay → Bool} : Rest b r (s.relevelChans t) := by
  unfold State.relevelChans
  try dsimp only
  repeat' (first | with_reducible exact h | with_reducible apply Rest.testReservation | with_reducible apply Rest.askPool | with_reducible rfl | with_reducible exact Inner.withClaimant_state | split | with_reducible apply Rest.setPoolList)

/-- A contactor that moves leaves a clearance in NONE there (R197). -/
theorem idle_moveCtr {b1 : Bay} {st : CtrState} {t : Timer} (h : (s.clearance b).state = .none) :
    ((s.moveCtr b1 st t).clearance b).state = .none := by
  unfold State.moveCtr
  dsimp only
  split
  · rw [Inner.endClearance_state, Inner.moved_keeps.1]; split
    · rfl
    · exact h
  · rw [Inner.moved_keeps.1]; exact h

theorem idle_openingEnds {b1 : Bay} (h : (s.clearance b).state = .none) : ((s.openingEnds b1).clearance b).state = .none := by
  unfold State.openingEnds State.driveClosed
  dsimp only
  have h1 := (returnStanding (refl b (s.moveCtr b1 .open none)) (b1 := b1)).idle (idle_moveCtr h)
  split
  · exact idle_moveCtr h1
  · exact h1

theorem idle_driveOpen {b1 : Bay} (h : (s.clearance b).state = .none) : ((s.driveOpen b1).clearance b).state = .none := by
  unfold State.driveOpen
  dsimp only
  split
  · exact idle_moveCtr h
  · exact idle_openingEnds (idle_moveCtr h)

theorem releaseCtr (h : Rest b r s) {p : Purpose} : Rest b r (s.releaseCtr b p) := by
  unfold State.releaseCtr
  split
  · have h1 : Rest b r (s.setCtr b ((s.ctr b).withClaimant p false)) := h.setCtr Inner.withClaimant_state
    dsimp only
    split
    · exact h1
    · have hmove : ∀ st, ((s.setCtr b ((s.ctr b).withClaimant p false)).ctr b).state = st → st ≠ .open →
          Rest b r ((s.setCtr b ((s.ctr b).withClaimant p false)).driveOpen b) := by
        intro st hst hne
        refine ⟨fun hn => idle_driveOpen (h1.idle hn), fun ho => ?_⟩
        exact absurd (hst.symm.trans (h1.still ho).1) hne
      split
      · rename_i hst; exact hmove _ hst (by decide)
      · rename_i hst; exact hmove _ hst (by decide)
      all_goals exact h1
  · exact h

theorem stopCount (h : Rest b r s)  : Rest b r (s.stopCount b) := by
  unfold State.stopCount
  try dsimp only
  repeat' (first | with_reducible exact h | with_reducible apply Rest.setSession | with_reducible rfl | with_reducible exact Inner.withClaimant_state | split)

theorem dropSupply (h : Rest b r s)  : Rest b r (s.dropSupply b) := by
  unfold State.dropSupply
  try dsimp only
  repeat' (first | with_reducible exact h | with_reducible apply Rest.releaseCtr | with_reducible apply Rest.returnComponent | with_reducible apply Rest.withdraw | with_reducible rfl | with_reducible exact Inner.withClaimant_state | split)

theorem heatRefused (h : Rest b r s)  : Rest b r (s.heatRefused b) := by
  unfold State.heatRefused
  try dsimp only
  repeat' (first | with_reducible exact h | with_reducible apply Rest.setSession | with_reducible rfl | with_reducible exact Inner.withClaimant_state | split)

theorem closeSession (h : Rest b r s)  {st : SState} {why : HeatEnd} : Rest b r (s.closeSession b st why) := by
  unfold State.closeSession
  try dsimp only
  repeat' (first | with_reducible exact h | with_reducible apply Rest.setSession | with_reducible apply Rest.raise | with_reducible rfl | with_reducible exact Inner.withClaimant_state | split)

theorem endSession (h : Rest b r s)  {why : HeatEnd} : Rest b r (s.endSession b why) := by
  unfold State.endSession
  try dsimp only
  repeat' (first | with_reducible exact h | with_reducible apply Rest.stopCount | with_reducible apply Rest.dropSupply | with_reducible apply Rest.closeSession | with_reducible rfl | with_reducible exact Inner.withClaimant_state | split)

theorem recordFault (h : Rest b r s)  {code : EndCode} : Rest b r (s.recordFault b code) := by
  unfold State.recordFault
  try dsimp only
  repeat' (first | with_reducible exact h | with_reducible apply Rest.setSummary | with_reducible apply Rest.raise | with_reducible apply Rest.askVet | with_reducible rfl | with_reducible exact Inner.withClaimant_state | split)

theorem recordLamp (h : Rest b r s)  {code : EndCode} : Rest b r (s.recordLamp b code) := by
  unfold State.recordLamp
  try dsimp only
  repeat' (first | with_reducible exact h | with_reducible apply Rest.setLampResult | with_reducible apply Rest.raise | with_reducible apply Rest.askVet | with_reducible rfl | with_reducible exact Inner.withClaimant_state | split)

theorem lampGiveUp (h : Rest b r s)  : Rest b r (s.lampGiveUp b) := by
  unfold State.lampGiveUp
  try dsimp only
  repeat' (first | with_reducible exact h | with_reducible apply Rest.releaseCtr | with_reducible apply Rest.returnComponent | with_reducible apply Rest.setLampWork | with_reducible rfl | with_reducible exact Inner.withClaimant_state | split)

theorem ownerEnds (h : Rest b r s)  {act : Activity} {code : EndCode} : Rest b r (s.ownerEnds b act code) := by
  unfold State.ownerEnds
  try dsimp only
  repeat' (first | with_reducible exact h | with_reducible apply Rest.lampGiveUp | with_reducible apply Rest.recordLamp | with_reducible apply Rest.recordFault | with_reducible rfl | with_reducible exact Inner.withClaimant_state | split)

theorem endWaiting (h : Rest b r s)  {act : Activity} {code : EndCode} : Rest b r (s.endWaiting b act code) := by
  unfold State.endWaiting
  try dsimp only
  repeat' (first | with_reducible exact h | with_reducible apply Rest.removeChan | with_reducible apply Rest.withdraw | with_reducible apply Rest.ownerEnds | with_reducible apply Rest.setLampWork | with_reducible apply Rest.setAct | with_reducible rfl | with_reducible exact Inner.withClaimant_state | split)

theorem lampRefused (h : Rest b r s)  : Rest b r (s.lampRefused b) := by
  unfold State.lampRefused
  try dsimp only
  repeat' (first | with_reducible exact h | with_reducible apply Rest.endWaiting | with_reducible rfl | with_reducible exact Inner.withClaimant_state | split)

theorem refuseEntry (h : Rest b r s)  {p : Purpose} : Rest b r (s.refuseEntry b p) := by
  unfold State.refuseEntry
  try dsimp only
  repeat' (first | with_reducible exact h | with_reducible apply Rest.withdraw | with_reducible apply Rest.heatRefused | with_reducible apply Rest.lampRefused | with_reducible rfl | with_reducible exact Inner.withClaimant_state | split)

theorem waive (h : Rest b r s)  {q : ClrRequest} : Rest b r (s.waive b q) := by
  unfold State.waive
  try dsimp only
  repeat' (first | with_reducible exact h | with_reducible apply Rest.endSession | with_reducible rfl | with_reducible exact Inner.withClaimant_state | split)

theorem barBegins (h : Rest b r s)  {st : ClrState} : Rest b r (s.barBegins b st) := by
  unfold State.barBegins
  try dsimp only
  repeat' (first | with_reducible exact h | with_reducible apply Rest.refuseEntry | with_reducible rfl | with_reducible exact Inner.withClaimant_state | split)

/-- A clearance in NONE stays there through the release of any bay's claim. -/
theorem idle_releaseCtr {b1 : Bay} {p : Purpose} (h : (s.clearance b).state = .none) :
    ((s.releaseCtr b1 p).clearance b).state = .none := by
  have h1 : ∀ x, ((s.setCtr b1 x).clearance b).state = .none := by intro x; simpa [State.clearance] using h
  unfold State.releaseCtr
  dsimp only
  split
  · split
    · exact h1 _
    · split
      · exact idle_driveOpen (h1 _)
      · exact idle_driveOpen (h1 _)
      all_goals exact h1 _
  · exact h

/-- The start test of any bay leaves a clearance in NONE there (R115). -/
theorem idle_startTest {b1 : Bay} (h : (s.clearance b).state = .none) : ((s.startTest b1).clearance b).state = .none := by
  have hs : ∀ (u : State) b2 x, (u.clearance b).state = .none → ((u.setSession b2 x).clearance b).state = .none := by
    intro u b2 x hu; simpa [State.clearance] using hu
  have ha : ∀ u : State, (u.clearance b).state = .none → ((u.askSupply b1).clearance b).state = .none := by
    intro u hu
    have hr : (u.request b1 .heat (u.session b1).arrival).clr = u.clr := by
      unfold State.request State.placeAdm
      split
      · rfl
      · split <;> rfl
    unfold State.askSupply
    split
    · refine hs _ _ _ ?_
      simpa only [State.clearance, hr] using hu
    all_goals exact hu
  have hc : ∀ x, ((s.completeSession b1 x).clearance b).state = .none := by
    intro x
    have h1 : ((s.stopCount b1).clearance b).state = .none := by
      unfold State.stopCount
      dsimp only
      split
      · exact hs _ _ _ h
      · exact h
    have h2 : ∀ u : State, (u.clearance b).state = .none → ((u.dropSupply b1).clearance b).state = .none := by
      intro u hu
      unfold State.dropSupply
      split
      · exact ((refl b _).returnComponent).idle (idle_releaseCtr hu)
      · exact ((refl b _).withdraw).idle hu
      · exact hu
    unfold State.completeSession
    exact ((refl b _).raise).idle (hs _ _ _ (h2 _ h1))
  unfold State.startTest
  dsimp only
  split
  · exact h
  · split
    · split
      · exact hc _
      · exact h
    · split
      · exact ha _ (hs _ _ _ h)
      · exact h

end Rest
end Sys2Proof.Machine
end

