-- ==== Sys2Proof/Laws/InnerClearance.lean ====
section
/-! SUPPORT. `Inner` for every act of a block: supply, clearances and the agenda. One lemma per definition, by its body. -/

namespace Sys2Proof.Machine.Inner

open Sys2Proof.Safety Sys2Proof.Config

variable {r s : State}

/-! ### Supply -/

theorem closedNotices (h : Inner r s) {b : Bay} : Inner r (s.closedNotices b) := by
  unfold State.closedNotices
  try dsimp only
  repeat' (first | with_reducible exact h | with_reducible apply Inner.enterHeating | with_reducible apply Inner.lampClosed | with_reducible rfl | with_reducible exact Inner.withClaimant_state | split)

theorem loseClaims (h : Inner r s) {b : Bay} {why : HeatEnd} : Inner r (s.loseClaims b why) := by
  unfold State.loseClaims
  try dsimp only
  repeat' (first | with_reducible exact h | with_reducible apply Inner.emptySet | with_reducible apply Inner.heatLost | with_reducible apply Inner.lampLost | with_reducible rfl | with_reducible exact Inner.withClaimant_state | split)

theorem refuseEntry (h : Inner r s) {b : Bay} {p : Purpose} : Inner r (s.refuseEntry b p) := by
  unfold State.refuseEntry
  try dsimp only
  repeat' (first | with_reducible exact h | with_reducible apply Inner.withdraw | with_reducible apply Inner.heatRefused | with_reducible apply Inner.lampRefused | with_reducible rfl | with_reducible exact Inner.withClaimant_state | split)

theorem enterStanding (h : Inner r s) {b : Bay} : Inner r (s.enterStanding b) := h.setClaim_recompute fun _ _ => rfl

theorem weldNotice (h : Inner r s) {b : Bay} : Inner r (s.weldNotice b) := by
  unfold State.weldNotice
  dsimp only
  split
  · exact h.askLoad.refuseEntry.refuseEntry
  · exact h.enterStanding.askLoad.refuseEntry.refuseEntry

theorem claimWith_ok {e : AEntry} : ClaimOk (s.claim e.bay) (s.claimWith e) := by
  intro _ _; unfold State.claimWith; split <;> rfl

theorem enterGrant (h : Inner r s) {e : AEntry} : Inner r (s.enterGrant e) :=
  setClaim_recompute (s := { s with admList := s.admList.filter fun x => !x.is e.bay e.purpose }) h.setAdmList claimWith_ok

theorem grantEntry (h : Inner r s) {e : AEntry} : Inner r (s.grantEntry e) := by
  unfold State.grantEntry
  try dsimp only
  repeat' (first | with_reducible exact h | with_reducible apply Inner.enterGrant | with_reducible apply Inner.heatGranted | with_reducible apply Inner.lampGranted | with_reducible rfl | with_reducible exact Inner.withClaimant_state | split)

theorem examineAdm (h : Inner r s) : Inner r s.examineAdm := by
  have ht : ∀ (x : Exam) (e : AEntry), Inner r x.st → Inner r (x.test e).st := by
    intro x e hx
    unfold Exam.test
    dsimp only
    split
    · exact hx
    · split
      · exact hx.grantEntry
      · exact hx
  have hf : ∀ (l : List AEntry) (x : Exam), Inner r x.st → Inner r (l.foldl Exam.test x).st := by
    intro l
    induction l with
    | nil => exact fun _ hx => hx
    | cons e l ih => exact fun x hx => ih _ (ht x e hx)
  exact hf _ _ h

theorem shedHeat (h : Inner r s) {b : Bay} {x : Bool} : Inner r (s.shedHeat b x) := by
  unfold State.shedHeat
  split
  · exact (h.setClaim_rebudget without_ok).raise.placeAdm.heatShed.returnStanding
  · exact h

theorem reduce (h : Inner r s)  : Inner r (s.reduce) := by
  unfold State.reduce
  try dsimp only
  repeat' (first | with_reducible exact h | with_reducible apply Inner.shedHeat | with_reducible rfl | with_reducible exact Inner.withClaimant_state | split)

theorem preempt (h : Inner r s)  : Inner r (s.preempt) := by
  unfold State.preempt
  try dsimp only
  repeat' (first | with_reducible exact h | with_reducible apply Inner.shedHeat | with_reducible rfl | with_reducible exact Inner.withClaimant_state | split)

theorem admissionDone (h : Inner r s) : Inner r s.admissionDone := h.setAgenda

theorem admissionRound (h : Inner r s) : Inner r (s.admissionRound) := by
  unfold State.admissionRound
  try dsimp only
  repeat' (first | with_reducible exact h | with_reducible apply Inner.reduce | with_reducible apply Inner.examineAdm | with_reducible apply Inner.preempt | with_reducible apply Inner.admissionDone | with_reducible rfl | with_reducible exact Inner.withClaimant_state | split)

theorem supplyTimedOut (h : Inner r s) {b : Bay} : Inner r (s.supplyTimedOut b) := by
  unfold State.supplyTimedOut
  try dsimp only
  repeat' (first | with_reducible exact h | with_reducible apply Inner.withdraw | with_reducible apply Inner.raise | with_reducible apply Inner.lampRefused | with_reducible rfl | with_reducible exact Inner.withClaimant_state | split)

theorem holdExpired (h : Inner r s) {b : Bay} : Inner r (s.holdExpired b) := by
  unfold State.holdExpired
  split
  · rename_i x hx
    exact (h.setClaim (by simp [ClaimRec.total, hx]) (by intro hc _; exact hc (by simp [hx]))).askLoad
  · exact h

theorem newQuantum (h : Inner r s) : Inner r s.newQuantum := by
  unfold State.newQuantum
  refine Inner.askLoad (s := { s with claims := s.claims.map fun c => c.requantum s.timeBase s.settings.quantum }) (h.trans ?_)
  have ht : ∀ (c : ClaimRec) n q, (c.requantum n q).total = c.total := by
    intro c n q; unfold ClaimRec.requantum HeatClaim.requantum
    split
    · rename_i x hx; split <;> simp [ClaimRec.total, hx]
    · rfl
  have hf : ∀ (c : ClaimRec) n q, (c.requantum n q).shown = c.shown := by
    intro c n q; unfold ClaimRec.requantum HeatClaim.requantum ClaimRec.shown
    split
    · rename_i x hx; split <;> simp [hx]
    · rfl
  refine ⟨⟨rfl, Grown.refl _, fun _ => ⟨rfl, rfl⟩, ?_, ?_, id, fun _ => .silent rfl ?_ fun _ => rfl⟩, id, id, id⟩
  · intro hl
    simp only [BudgetLaw, State.granted, Vector.toList_map, List.map_map] at hl ⊢
    have : (ClaimRec.total ∘ fun c => c.requantum s.timeBase s.settings.quantum) = ClaimRec.total := funext fun c => ht c _ _
    rw [this]; exact hl
  · intro hl b
    have := hl b
    simp only [State.claim, vget_map] at this ⊢
    generalize vget s.claims b = c at this
    unfold ClaimRec.requantum
    split
    · rename_i x hx; intro _; exact this (by simp [hx])
    · exact this
  · funext b
    apply Marks.face_ext <;> first | (intros; rfl) | (simp only [State.claim, vget_map]; exact hf _ _ _)

/-! ### Clearance -/

theorem waive (h : Inner r s) {b : Bay} {q : ClrRequest} : Inner r (s.waive b q) := by
  unfold State.waive
  try dsimp only
  repeat' (first | with_reducible exact h | with_reducible apply Inner.endSession | with_reducible rfl | with_reducible exact Inner.withClaimant_state | split)

theorem barBegins (h : Inner r s) {b : Bay} {st : ClrState} : Inner r (s.barBegins b st) := by
  unfold State.barBegins
  try dsimp only
  repeat' (first | with_reducible exact h | with_reducible apply Inner.refuseEntry | with_reducible rfl | with_reducible exact Inner.withClaimant_state | split)

/-- A clearance is put in a state that its signal, its contactor and a running reload allow. -/
theorem setClearanceTo (h : Inner r s) {b : Bay} {x : Clearance} (hs : SignalLaw s → (s.bay b).proceed = true → x.state = .cleared)
    (hc : ContactorLaw s → x.state.needsOpen = true → (s.ctr b).state = .open)
    (hr : ReloadQuiet s → s.path.reload.isSome = true → x.state = .none) : Inner r (s.setClearance b x) := by
  have hst : ∀ b', (s.setClearance b x).clearance b' = if b = b' then x else s.clearance b' := by simp [State.clearance]
  refine h.trans ⟨(Mild.refl s).setClearance, ?_, ?_, ?_⟩
  · intro hl b' hp
    rw [hst]
    have hp' : (s.bay b').proceed = true := by simpa [State.bay] using hp
    split
    · rename_i hb; subst hb; exact hs hl hp'
    · exact hl b' hp'
  · intro hl b' hn
    rw [hst] at hn
    have : (s.setClearance b x).ctr b' = s.ctr b' := by simp [State.ctr]
    rw [this]
    split at hn
    · rename_i hb; subst hb; exact hc hl hn
    · exact hl b' hn
  · intro hl hp b'
    rw [hst]
    have hp' : s.path.reload.isSome = true := by simpa using hp
    split
    · exact hr hl hp'
    · exact hl hp' b'

/-- A clearance is put in a state, and the exit signal set, as its contactor and a running reload allow. -/
theorem place (h : Inner r s) {b : Bay} {x : Clearance} {p : Bool} (hs : p = true → x.state = .cleared)
    (hc : ContactorLaw s → x.state.needsOpen = true → (s.ctr b).state = .open)
    (hr : ReloadQuiet s → s.path.reload.isSome = true → x.state = .none) : Inner r ((s.setClearance b x).setSignal b p) := by
  have hst : ∀ b', ((s.setClearance b x).setSignal b p).clearance b' = if b = b' then x else s.clearance b' := by
    simp [State.clearance, State.setSignal]
  have hbay : ∀ b', (((s.setClearance b x).setSignal b p).bay b').proceed = if b = b' then p else (s.bay b').proceed := by
    intro b'; simp only [State.bay, State.setSignal, setBay_bays, setClearance_bays, vget_vset]; split <;> rfl
  refine h.trans ⟨(show Mild s ((s.setClearance b x).setSignal b p) from (Mild.refl s).setClearance.setBay), ?_, ?_, ?_⟩
  · intro hl b' hp
    rw [hbay] at hp
    rw [hst]
    split
    · rename_i hb; rw [if_pos hb] at hp; exact hs hp
    · rename_i hb; rw [if_neg hb] at hp; exact hl b' hp
  · intro hl b' hn
    rw [hst] at hn
    have : ((s.setClearance b x).setSignal b p).ctr b' = s.ctr b' := by simp [State.ctr, State.setSignal]
    rw [this]
    split at hn
    · rename_i hb; subst hb; exact hc hl hn
    · exact hl b' hn
  · intro hl hp b'
    rw [hst]
    have hp' : s.path.reload.isSome = true := by simpa [State.setSignal] using hp
    split
    · exact hr hl hp'
    · exact hl hp' b'

theorem needsOpen_ne {c : ClrState} (h : c.needsOpen = true) : c ≠ .none := by cases c <;> simp [ClrState.needsOpen] at h ⊢

theorem enterDeparting (h : Inner r s) {b : Bay} (hn : (s.clearance b).state.needsOpen = true) : Inner r (s.enterDeparting b) := by
  unfold State.enterDeparting
  exact (h.place (fun hp => absurd hp (by decide)) (fun hl _ => hl b hn)
    (fun hl hp => absurd (hl hp b) (needsOpen_ne hn))).barBegins

theorem showCleared (h : Inner r s) {b : Bay} {x : Bool} {n : Nat} (hn : (s.clearance b).state = .cleared) :
    Inner r (s.showCleared b x n) := by
  unfold State.showCleared
  dsimp only
  have h1 : Inner r (s.setSignal b true) := by
    unfold State.setSignal
    refine Inner.setBay h ?_
    exact fun _ => Or.inr hn
  split
  · refine h1.raise.enterDeparting ?_
    simp [State.clearance, State.setSignal]
    have : (vget s.clr b).state = .cleared := hn
    simp [this, ClrState.needsOpen]
  · exact h1.raise

theorem setClearance_rest {b : Bay} {x : Clearance} (ho : (s.ctr b).state = .open) :
    ((s.setClearance b x).ctr b).state = .open ∧ (s.setClearance b x).clearance b = x := by
  refine ⟨?_, ?_⟩
  · simpa [State.ctr] using ho
  · simp [State.clearance]

theorem enterCleared (h : Inner r s) {b : Bay} {q : ClrRequest} (ho : (s.ctr b).state = .open)
    (hr : s.path.reload.isSome = true → (s.clearance b).state ≠ .none) : Inner r (s.enterCleared b q) := by
  unfold State.enterCleared
  dsimp only
  generalize hx : (Clearance.mk _ _ _ _ _ _ _ _ _ _ _ _ _) = x
  have hxs : x.state = .cleared := by rw [← hx]
  have h1 : Inner r (s.setClearance b x) := h.setClearanceTo (fun _ _ => hxs) (fun _ _ => ho)
    (fun hl hp => absurd (hl hp b) (hr hp))
  have h2 := setClearance_rest (s := s) (b := b) (x := x) ho
  split
  · refine h1.relevelChans.barBegins.showCleared ?_
    rw [((Rest.refl b _).relevelChans.barBegins.still h2.1).2, h2.2, hxs]
  · refine h1.barBegins.showCleared ?_
    rw [((Rest.refl b _).barBegins.still h2.1).2, h2.2, hxs]

theorem placeLamp (h : Inner r s) {b : Bay} : Inner r (s.placeLamp b) := by
  unfold State.placeLamp
  try dsimp only
  repeat' (first | with_reducible exact h | with_reducible apply Inner.setClearance | with_reducible apply Inner.beginLamp | with_reducible rfl | with_reducible exact Inner.withClaimant_state | split)

theorem placeFault (h : Inner r s) {b : Bay} : Inner r (s.placeFault b) := by
  unfold State.placeFault
  try dsimp only
  repeat' (first | with_reducible exact h | with_reducible apply Inner.setClearance | with_reducible apply Inner.beginFault | with_reducible rfl | with_reducible exact Inner.withClaimant_state | split)

theorem enterPreparing (h : Inner r s) {b : Bay} {q : ClrRequest} {x : Reasons} (hn : (s.clearance b).state = .none)
    (hr : s.path.reload = none) : Inner r (s.enterPreparing b q x) := by
  unfold State.enterPreparing
  refine Inner.placeFault (Inner.placeLamp (Inner.relevelChans (Inner.barBegins ?_)))
  refine h.setClearanceTo (fun hl hp => ?_) (fun _ hc => by simp [ClrState.needsOpen] at hc) (fun _ hp => absurd hp (by simp [hr]))
  have := hl b hp
  rw [hn] at this
  exact absurd this (by decide)

theorem enterSuspended (h : Inner r s) {b : Bay} (hn : (s.clearance b).state.needsOpen = true) : Inner r (s.enterSuspended b) := by
  unfold State.enterSuspended
  exact (h.place (fun hp => absurd hp (by decide)) (fun hl _ => hl b hn)
    (fun hl hp => absurd (hl hp b) (needsOpen_ne hn))).barBegins.raise

theorem resumeCleared (h : Inner r s) {b : Bay} {q : ClrRequest} (ho : (s.ctr b).state = .open) (hn : (s.clearance b).state ≠ .none) :
    Inner r (s.resumeCleared b q) := by
  unfold State.resumeCleared
  dsimp only
  generalize hx : (Clearance.mk _ _ _ _ _ _ _ _ _ _ _ _ _) = x
  have hxs : x.state = .cleared := by rw [← hx]
  have h1 : Inner r (s.setClearance b x) := h.setClearanceTo (fun _ _ => hxs) (fun _ _ => ho) (fun hl hp => absurd (hl hp b) hn)
  have h2 := setClearance_rest (s := s) (b := b) (x := x) ho
  refine h1.barBegins.showCleared ?_
  rw [((Rest.refl b _).barBegins.still h2.1).2, h2.2, hxs]

/-- A met vetting finds the contactor OPEN (R185, R190). -/
theorem met_open {b : Bay} {q : ClrRequest} (hv : s.verdict b q = .met) : (s.ctr b).state = .open := by
  unfold State.verdict at hv
  split at hv
  · rename_i h0
    refine Classical.byContradiction fun hne => ?_
    have hf : s.contactorFails b = true := by simp [State.contactorFails, hne]
    have : s.failing b q &&& rContactor ≠ 0 := by
      unfold State.failing
      rw [hf]
      generalize reasonIf (!s.isAssigned b) rNoPlan ||| reasonIf (s.isAssigned b && q.run != s.planRun b) rRunMismatch |||
        reasonIf (!s.occupied b) rNotPresent ||| reasonIf (s.isAssigned b && !s.identityMet b) rIdentity |||
        reasonIf (s.lampFails b) rLamp ||| reasonIf (s.faultFails b) rFault ||| reasonIf (s.heatFails b q.waiver) rHeat |||
        reasonIf (s.plugged b) rPlug = x
      generalize reasonIf (s.hb.state != .live) rSilent = y
      generalize reasonIf s.hold.taken rHold = z
      intro hh
      have := congrArg (fun v : Reasons => v.getLsbD 8) hh
      simp [reasonIf, rContactor] at this
    have h0' : s.failing b q = 0 := by simpa using h0
    rw [h0'] at this
    exact this (by decide)
  · split at hv <;> cases hv

theorem waived {b : Bay} {q : ClrRequest} (ho : (s.ctr b).state = .open) :
    ((s.waive b q).ctr b).state = .open ∧ (s.waive b q).clearance b = s.clearance b :=
  (Rest.refl b s).waive.still ho

theorem revet (h : Inner r s) {b : Bay} : Inner r (s.revet b) := by
  unfold State.revet
  dsimp only
  split
  · rename_i q hst hq
    split
    · exact h.endClearance
    · rename_i hv
      have hw := waived (q := q) (met_open hv)
      refine h.waive.enterCleared hw.1 fun _ => ?_
      rw [hw.2, hst]; decide
    · refine Inner.placeFault (Inner.placeLamp (h.waive.setClearance ?_))
      rfl
  · exact h

theorem preparationOver (h : Inner r s) {b : Bay} : Inner r (s.preparationOver b) := by
  unfold State.preparationOver
  try dsimp only
  repeat' (first | with_reducible exact h | with_reducible apply Inner.request | with_reducible apply Inner.endClearance | with_reducible rfl | with_reducible exact Inner.withClaimant_state | split)

theorem refuseRequest (h : Inner r s) {b : Bay} {r' : Refused} {seq : Nat} : Inner r (s.refuseRequest b r' seq) := by
  unfold State.refuseRequest
  try dsimp only
  repeat' (first | with_reducible exact h | with_reducible apply Inner.raise | with_reducible rfl | with_reducible exact Inner.withClaimant_state | split)

theorem takeClear (h : Inner r s) {b : Bay} {q : ClrRequest} (hn : (s.clearance b).state = .none) (hr : s.path.reload = none) :
    Inner r (s.takeClear b q) := by
  have hpath : (s.waive b q).path = s.path := congrArg Outer.path ((Inner.refl s).waive (b := b) (q := q)).mild.outer
  unfold State.takeClear
  split
  · refine Inner.raiseOutcome (h.setClearance ?_)
    rfl
  · rename_i hv
    exact h.waive.enterCleared (waived (met_open hv)).1 fun hp => absurd hp (by simp [hpath, hr])
  · exact h.waive.enterPreparing ((Rest.refl b s).waive.idle hn) (by rw [hpath]; exact hr)

theorem stopClearanceCheck (h : Inner r s) {b : Bay} {act : Activity} : Inner r (s.stopClearanceCheck b act) := by
  unfold State.stopClearanceCheck
  try dsimp only
  repeat' (first | with_reducible exact h | with_reducible apply Inner.orderlyStop | with_reducible rfl | with_reducible exact Inner.withClaimant_state | split)

theorem cancelClearance (h : Inner r s) {b : Bay} : Inner r (s.cancelClearance b) := by
  unfold State.cancelClearance
  try dsimp only
  repeat' (first | with_reducible exact h | with_reducible apply Inner.endClearance | with_reducible apply Inner.stopClearanceCheck | with_reducible rfl | with_reducible exact Inner.withClaimant_state | split)

theorem takeRequest (h : Inner r s) {b : Bay} {x : ClearRow} (hr : s.path.reload = none) : Inner r (s.takeRequest b x) := by
  unfold State.takeRequest
  dsimp only
  split
  · exact h
  · have h1 : Inner r (s.setClearance b { s.clearance b with lastSeq := some x.seq }) := h.setClearance rfl
    split
    · rename_i hst
      refine h1.takeClear ?_ (by simpa using hr)
      simpa [State.clearance] using hst
    · exact h1.refuseRequest
    · exact h1.refuseRequest
    · exact h1.cancelClearance

theorem clearancePlugIn (h : Inner r s) {b : Bay} : Inner r (s.clearancePlugIn b) := by
  unfold State.clearancePlugIn
  try dsimp only
  repeat' (first | with_reducible exact h | with_reducible apply Inner.endClearance | with_reducible apply Inner.askVet | with_reducible rfl | with_reducible exact Inner.withClaimant_state | split)

theorem clearanceHold (h : Inner r s) {b : Bay} : Inner r (s.clearanceHold b) := by
  unfold State.clearanceHold
  split
  · rename_i hst
    exact h.enterSuspended (by rw [hst]; decide)
  · exact h.askVet
  all_goals exact h

theorem clearanceRelease (h : Inner r s) {b : Bay} : Inner r (s.clearanceRelease b) := by
  unfold State.clearanceRelease
  dsimp only
  split
  · rename_i q hst hq
    split
    · rename_i hv
      have hw := waived (q := q) (met_open (by simpa using hv))
      refine h.waive.resumeCleared hw.1 ?_
      rw [hw.2, hst]; decide
    · exact h.endClearance
  · exact h.askVet
  · exact h

theorem clearanceLoopOn (h : Inner r s) {b : Bay} : Inner r (s.clearanceLoopOn b) := by
  unfold State.clearanceLoopOn
  dsimp only
  split
  · rename_i hst
    exact h.enterDeparting (by rw [hst]; decide)
  · exact h.endClearance
  · exact h.setClearance rfl
  all_goals exact h

theorem clearanceLoopOff (h : Inner r s) {b : Bay} : Inner r (s.clearanceLoopOff b) := by
  unfold State.clearanceLoopOff
  try dsimp only
  repeat' (first | with_reducible exact h | with_reducible apply Inner.setClearance | with_reducible rfl | with_reducible exact Inner.withClaimant_state | split)

theorem clearanceEmpty (h : Inner r s) {b : Bay} : Inner r (s.clearanceEmpty b) := by
  unfold State.clearanceEmpty
  try dsimp only
  repeat' (first | with_reducible exact h | with_reducible apply Inner.endClearance | with_reducible apply Inner.raise | with_reducible rfl | with_reducible exact Inner.withClaimant_state | split)

theorem clearancePlanChange (h : Inner r s) {b : Bay} : Inner r (s.clearancePlanChange b) := by
  unfold State.clearancePlanChange
  try dsimp only
  repeat' (first | with_reducible exact h | with_reducible apply Inner.endClearance | with_reducible rfl | with_reducible exact Inner.withClaimant_state | split)

theorem autoLamp (h : Inner r s) {b : Bay} : Inner r (s.autoLamp b) := by
  unfold State.autoLamp
  split
  · refine Inner.beginLamp (Inner.setBay h ?_)
    exact fun hp => Or.inl hp
  · exact h

theorem autoFault (h : Inner r s) {b : Bay} : Inner r (s.autoFault b) := by
  unfold State.autoFault
  split
  · refine Inner.beginFault (Inner.setBay h ?_)
    exact fun hp => Or.inl hp
  · exact h

theorem rosterEvaluation (h : Inner r s) {b : Bay} : Inner r (s.rosterEvaluation b) := by
  unfold State.rosterEvaluation
  try dsimp only
  repeat' (first | with_reducible exact h | with_reducible apply Inner.autoLamp | with_reducible apply Inner.autoFault | with_reducible rfl | with_reducible exact Inner.withClaimant_state | split)

/-! ### Settle -/

theorem vetRound (h : Inner r s) {b : Bay} : Inner r (s.vetRound b) := by
  unfold State.vetRound
  exact h.setAgenda.revet

theorem poolRound (h : Inner r s)  : Inner r (s.poolRound) := by
  unfold State.poolRound
  try dsimp only
  repeat' (first | with_reducible exact h | with_reducible apply Inner.examineChannels | with_reducible rfl | with_reducible exact Inner.withClaimant_state | split | with_reducible apply Inner.setAgenda)

theorem settleN (h : Inner r s) (n : Nat) : Inner r (Machine.settleN n s) := by
  induction n generalizing s with
  | zero => exact h
  | succ n ih =>
    unfold Machine.settleN
    split
    · rename_i u hu
      apply ih
      unfold State.settleRound at hu
      repeat' split at hu
      all_goals cases hu
      · exact h.admissionRound
      · exact h.poolRound
      · exact h.vetRound
    · exact h

/-- Everything a command asks for is done by acts of the blocks (log 15). -/
theorem settle (h : Inner r s) : Inner r s.settle := h.settleN _

end Sys2Proof.Machine.Inner
end

