-- ==== Sys2Proof/Laws/InnerCommands.lean ====
section
/-! SUPPORT. `Inner` for every act of a block: line changes, minute events and handed-over records. One lemma per definition, by its body. -/

namespace Sys2Proof.Machine.Inner

open Sys2Proof.Safety Sys2Proof.Config

variable {r s : State}

/-! ### BayUnit -/

theorem presenceOn {b : Bay} : Inner (s.setLines b { s.line b with presence := (s.line b).presence.take }) (s.presenceOn b) := by
  unfold State.presenceOn
  exact (refl _).startTest.askVet

theorem stopsEmpty (h : Inner r s) {b : Bay} : Inner r (s.stopsEmpty b) := by
  unfold State.stopsEmpty
  try dsimp only
  repeat' (first | with_reducible exact h | with_reducible apply Inner.immediateStop | with_reducible rfl | with_reducible exact Inner.withClaimant_state | split)

theorem departure (h : Inner r s) {b : Bay} : Inner r (s.departure b) := by
  unfold State.departure
  refine Inner.askVet (Inner.clearanceEmpty (Inner.stopsEmpty (Inner.endSession (Inner.setBay h ?_))))
  exact fun hp => Or.inl hp

theorem presenceOff {b : Bay} : Inner (s.setLines b { s.line b with presence := (s.line b).presence.take }) (s.presenceOff b) := by
  unfold State.presenceOff
  dsimp only
  split
  · exact (refl _).departure
  · exact (refl _).stopsEmpty

theorem plugPulled (h : Inner r s) {b : Bay} : Inner r (s.plugPulled b) := by
  unfold State.plugPulled
  try dsimp only
  repeat' (first | with_reducible exact h | with_reducible apply Inner.raise | with_reducible apply Inner.emptySet | with_reducible apply Inner.driveOpen | with_reducible rfl | with_reducible exact Inner.withClaimant_state | split)

theorem plugOff {b : Bay} : Inner (s.setLines b { s.line b with plug := (s.line b).plug.take }) (s.plugOff b) := by
  unfold State.plugOff
  exact (refl _).plugPulled.heatPlugOut.immediateStop.askVet

theorem plugOn {b : Bay} : Inner (s.setLines b { s.line b with plug := (s.line b).plug.take }) (s.plugOn b) := by
  unfold State.plugOn
  exact (refl _).heatPlugIn.clearancePlugIn

theorem loopOn {b : Bay} : Inner (s.setLines b { s.line b with loop := (s.line b).loop.take }) (s.loopOn b) := by
  unfold State.loopOn
  exact (refl _).clearanceLoopOn

theorem loopOff {b : Bay} : Inner (s.setLines b { s.line b with loop := (s.line b).loop.take }) (s.loopOff b) := by
  unfold State.loopOff
  exact (refl _).clearanceLoopOff

theorem eachBay (h : Inner r s) {f : State → Bay → State} (hf : ∀ u b, Inner r u → Inner r (f u b)) : Inner r (s.eachBay f) :=
  fold hf _ _ h

theorem holdOn : Inner s.takeHold s.holdOn := by
  unfold State.holdOn
  have h1 : Inner s.takeHold s.takeHold := refl _
  refine h1.raise.eachBay ?_
  exact fun _ _ h => h.clearanceHold

theorem holdOff : Inner s.takeHold s.holdOff := by
  unfold State.holdOff
  have h1 : Inner s.takeHold s.takeHold := refl _
  refine h1.raise.eachBay ?_
  exact fun _ _ h => h.clearanceRelease

theorem unexpected (h : Inner r s) {b : Bay} {closed : Bool} : Inner r (s.unexpected b closed) := by
  unfold State.unexpected
  try dsimp only
  repeat' (first | with_reducible exact h | with_reducible apply Inner.raise | with_reducible rfl | with_reducible exact Inner.withClaimant_state | split)

theorem weldFound (h : Inner r s) {b : Bay} : Inner r (s.weldFound b) := by
  unfold State.weldFound
  try dsimp only
  repeat' (first | with_reducible exact h | with_reducible apply Inner.raise | with_reducible apply Inner.moveCtr | with_reducible apply Inner.weldNotice | with_reducible rfl | with_reducible exact Inner.withClaimant_state | split)

theorem feedbackOn {b : Bay} : Inner (s.setLines b { s.line b with feedback := (s.line b).feedback.take }) (s.feedbackOn b) := by
  unfold State.feedbackOn
  dsimp only
  split
  · exact (refl _).moveCtr.closedNotices
  · exact (refl _).unexpected.weldFound
  · exact (refl _).unexpected.weldFound
  all_goals exact (refl _).unexpected

theorem fellOpen (h : Inner r s) {b : Bay} : Inner r (s.fellOpen b) := by
  unfold State.fellOpen
  try dsimp only
  repeat' (first | with_reducible exact h | with_reducible apply Inner.moveCtr | with_reducible apply Inner.loseClaims | with_reducible apply Inner.returnStanding | with_reducible rfl | with_reducible exact Inner.withClaimant_state | split)

theorem feedbackOff {b : Bay} : Inner (s.setLines b { s.line b with feedback := (s.line b).feedback.take }) (s.feedbackOff b) := by
  unfold State.feedbackOff
  dsimp only
  split
  · exact (refl _).openingEnds
  · exact (refl _).unexpected.fellOpen
  all_goals exact (refl _).unexpected

theorem closeFailed (h : Inner r s) {b : Bay} : Inner r (s.closeFailed b) := by
  unfold State.closeFailed
  try dsimp only
  repeat' (first | with_reducible exact h | with_reducible apply Inner.moveCtr | with_reducible apply Inner.loseClaims | with_reducible apply Inner.raise | with_reducible apply Inner.returnStanding | with_reducible rfl | with_reducible exact Inner.withClaimant_state | split)

theorem openFailed (h : Inner r s) {b : Bay} : Inner r (s.openFailed b) := by
  unfold State.openFailed
  try dsimp only
  repeat' (first | with_reducible exact h | with_reducible apply Inner.moveCtr | with_reducible apply Inner.loseClaims | with_reducible apply Inner.raise | with_reducible apply Inner.weldNotice | with_reducible rfl | with_reducible exact Inner.withClaimant_state | split)

theorem maintenanceRelease (h : Inner r s) {b : Bay} : Inner r (s.maintenanceRelease b) := by
  unfold State.maintenanceRelease
  try dsimp only
  repeat' (first | with_reducible exact h | with_reducible apply Inner.emptySet | with_reducible apply Inner.moveCtr | with_reducible apply Inner.returnStanding | with_reducible apply Inner.raise | with_reducible rfl | with_reducible exact Inner.withClaimant_state | split)

theorem planEndings (h : Inner r s) {b : Bay} : Inner r (s.planEndings b) := by
  unfold State.planEndings
  try dsimp only
  repeat' (first | with_reducible exact h | with_reducible apply Inner.endSession | with_reducible apply Inner.orderlyStop | with_reducible apply Inner.clearancePlanChange | with_reducible apply Inner.emptyFaults | with_reducible apply Inner.emptyLampResult | with_reducible rfl | with_reducible exact Inner.withClaimant_state | split)

theorem newAssignment (h : Inner r s) {b : Bay} {x : PlanRow} : Inner r (s.newAssignment b x) := by
  unfold State.newAssignment
  have h1 := h.planEndings (b := b)
  generalize s.planEndings b = u at h1 ⊢
  refine Inner.askVet (Inner.newSession (Inner.setBay h1 ?_))
  exact fun hp => Or.inl hp

theorem withdrawal (h : Inner r s) {b : Bay} : Inner r (s.withdrawal b) := by
  unfold State.withdrawal
  have h1 := h.planEndings (b := b)
  generalize s.planEndings b = u at h1 ⊢
  refine Inner.askVet (Inner.setBay h1 ?_)
  exact fun hp => Or.inl hp

theorem amendment (h : Inner r s) {b : Bay} {x y : PlanRow} : Inner r (s.amendment b x y) := by
  unfold State.amendment
  split
  · exact h
  · refine Inner.askVet (Inner.heatAmend (Inner.setBay h ?_))
    exact fun hp => Or.inl hp

theorem planCommitted (h : Inner r s) {b : Bay} {row : PlanRow} : Inner r (s.planCommitted b row) := by
  unfold State.planCommitted
  try dsimp only
  repeat' (first | with_reducible exact h | with_reducible apply Inner.amendment | with_reducible apply Inner.newAssignment | with_reducible apply Inner.withdrawal | with_reducible rfl | with_reducible exact Inner.withClaimant_state | split)

/-! ### DepotClock -/

theorem minuteEvent (hr : s.path.reload = none) : Inner s.rosterInUse s.minuteEvent := by
  unfold State.minuteEvent
  rw [if_neg (by simp [hr])]
  refine Inner.askVetAll (Inner.eachBay (Inner.relevelChans (Inner.eachBay (Inner.relevelAdm (Inner.eachBay (refl _) ?_)) ?_)) ?_)
  · exact fun _ _ h => h.heatMinute
  · exact fun _ _ h => h.relevelClaim
  · exact fun _ _ h => h.rosterEvaluation

/-! ### Capture -/

theorem rejectRow (h : Inner r s) {bay : Option Bay} {offset : Nat} : Inner r (s.rejectRow bay offset) := by
  unfold State.rejectRow
  try dsimp only
  repeat' (first | with_reducible exact h | with_reducible apply Inner.raise | with_reducible rfl | with_reducible exact Inner.withClaimant_state | split)

theorem carryOut (h : Inner r s) {b : Bay} {o : OrderKind} : Inner r (s.carryOut b o) := by
  unfold State.carryOut
  try dsimp only
  repeat' (first | with_reducible exact h | with_reducible apply Inner.beginLamp | with_reducible apply Inner.beginFault | with_reducible apply Inner.endSession | with_reducible apply Inner.orderlyStop | with_reducible apply Inner.maintenanceRelease | with_reducible rfl | with_reducible exact Inner.withClaimant_state | split)

theorem testOrder (h : Inner r s) {b : Bay} {w : Word} : Inner r (s.testOrder b w) := by
  unfold State.testOrder
  try dsimp only
  repeat' (first | with_reducible exact h | with_reducible apply Inner.raise | with_reducible apply Inner.carryOut | with_reducible rfl | with_reducible exact Inner.withClaimant_state | split)

end Sys2Proof.Machine.Inner
end

