-- ==== Sys2Proof/Laws/Handed.lean ====
section
/-! SUPPORT. What the Capture Unit's hand-over of a word does (R35, R37): the relation `Handed r s`, weaker than `Inner` in that settings, class
and plan copies, clock, attention, consumer index and supervision may change, and one lemma per definition of Capture.lean and DepotClock.lean. -/

namespace Sys2Proof.Machine

open Sys2Proof.Safety Sys2Proof.Config

/-- What no hand-over changes. -/
structure Apart where
  pending : List Instr
  timeBase : Nat
  mem : Memory
  path : Path
  sel : Option Posting
  lastRow : Fin 32
  lastStream : Stream
  cap : Capture
  lines : Bays BayLines
  hold : LineState
  heads : Bays Set8
  producer : BitVec 16
  epoch : BitVec 16

def State.apart (s : State) : Apart :=
  { pending := s.pending, timeBase := s.timeBase, mem := s.mem, path := s.path, sel := s.post.sel, lastRow := s.post.lastRow,
    lastStream := s.post.lastStream, cap := s.cap, lines := s.lines, hold := s.hold, heads := s.heads, producer := s.ev.producer,
    epoch := s.ev.epoch }

/-- `s` comes from `r` by a hand-over. -/
structure Handed (r s : State) : Prop where
  apart : s.apart = r.apart
  grown : Grown r.ev s.ev
  budget : BudgetLaw r → BudgetLaw s
  standing : StandingLaw r → StandingLaw s
  signal : SignalLaw r → SignalLaw s
  contactor : ContactorLaw r → ContactorLaw s
  asleep : ReloadQuiet r → ReloadQuiet s
  tables : TablesLaw r → TablesLaw s
  marks : r.path.reload = none → Marks r s

namespace Handed

variable {r s : State}

theorem refl (s : State) : Handed s s := ⟨rfl, Grown.refl _, id, id, id, id, id, id, fun _ => .refl s⟩

theorem trans {q : State} (h : Handed q r) (k : Handed r s) : Handed q s :=
  ⟨k.apart.trans h.apart, h.grown.trans k.grown, k.budget ∘ h.budget, k.standing ∘ h.standing, k.signal ∘ h.signal,
   k.contactor ∘ h.contactor, k.asleep ∘ h.asleep, k.tables ∘ h.tables,
   fun hp => (h.marks hp).trans (k.marks (by rw [show r.path = q.path from congrArg Apart.path h.apart]; exact hp))⟩

theorem apart_of_outer {r s : State} (h : s.outer = r.outer) : s.apart = r.apart := by
  simp only [State.outer, Outer.mk.injEq] at h
  simp only [State.apart, Apart.mk.injEq]
  simp_all

theorem inner {q : State} (h : Handed q r) (k : Inner r s) : Handed q s :=
  h.trans ⟨apart_of_outer k.mild.outer, k.mild.grown, k.mild.budget, k.mild.standing, k.signal, k.contactor, k.asleep, k.mild.tables,
    k.mild.marks⟩

/-- A change of what no law reads and the Event Buffer does not hold. -/
theorem same (h : Handed r s) {u : State} (ha : u.apart = s.apart) (he : Grown s.ev u.ev) (hset : u.settings = s.settings)
    (hf : u.effective = s.effective) (hc : u.claims = s.claims) (hb : ∀ b, (u.bay b).proceed = (s.bay b).proceed) (hr : u.clr = s.clr)
    (hk : u.ctrs = s.ctrs) (ht : u.tables = s.tables)
    (hm : Marks s u := by exact .silent rfl rfl fun _ => rfl) : Handed r u := by
  have hp : u.path = s.path := congrArg Apart.path ha
  refine h.trans ⟨ha, he, ?_, ?_, ?_, ?_, ?_, ?_, fun _ => hm⟩
  · simp [BudgetLaw, State.granted, hf, hc, hset]
  · simp [StandingLaw, State.claim, hc]
  · simp [SignalLaw, State.clearance, hb, hr]
  · simp [ContactorLaw, State.ctr, State.clearance, hk, hr]
  · simp [ReloadQuiet, State.clearance, hp, hr]
  · simp [TablesLaw, State.table, ht]

/-! ### Depot Clock -/

theorem rosterInUse (h : Handed r s) : Handed r s.rosterInUse :=
  h.same rfl (Grown.refl _) rfl rfl rfl (fun b => by simp [State.rosterInUse, State.bay]) rfl rfl rfl <| by
    refine .silent rfl (funext fun b => ?_) fun _ => rfl
    apply Marks.face_ext <;> first | (intros; rfl) | (simp only [State.rosterInUse, State.bay, vget_map]; rfl)

/-- A minute event moves nothing but what the blocks that receive it move (R57). -/
theorem minuteEvent (h : Handed r s) : Handed r s.minuteEvent := by
  cases hr : s.path.reload with
  | none => exact h.rosterInUse.inner (Inner.minuteEvent hr)
  | some x =>
    have : s.minuteEvent = s := by unfold State.minuteEvent; rw [if_pos (by simp [hr])]
    rw [this]; exact h

theorem setClock (h : Handed r s) {c : Clock} : Handed r { s with clock := c } := h.same rfl (Grown.refl _) rfl rfl rfl (fun _ => rfl) rfl rfl rfl

theorem raise (h : Handed r s) {k : Kind} {b : Option Bay} {d q : Nat} : Handed r (s.raise k b d q) := h.inner (Inner.refl _).raise

theorem clockSet (h : Handed r s) {x : ClockSetRow} : Handed r (s.clockSet x) := by
  unfold State.clockSet
  exact h.setClock.minuteEvent.raise

theorem clockTrim (h : Handed r s) : Handed r s.clockTrim := by
  unfold State.clockTrim
  dsimp only
  split
  · exact h
  · split
    · exact h.setClock.raise
    · exact h.setClock.minuteEvent.raise

/-! ### Attention, consumer index, heartbeat -/

theorem acknowledge (h : Handed r s) {x : AckRow} : Handed r (s.acknowledge x) :=
  h.same rfl (Grown.refl _) rfl rfl rfl (fun _ => rfl) rfl rfl rfl

theorem takeIndex (h : Handed r s) {k : BitVec 16} : Handed r (s.takeIndex k) := by
  unfold State.takeIndex
  split
  · exact h.same rfl ⟨List.prefix_refl _, id, rfl⟩ rfl rfl rfl (fun _ => rfl) rfl rfl rfl
  · exact h.raise

theorem setHb (h : Handed r s) {x : Heartbeat} : Handed r { s with hb := x } := h.same rfl (Grown.refl _) rfl rfl rfl (fun _ => rfl) rfl rfl rfl

theorem heartbeat (h : Handed r s) : Handed r s.heartbeat := by
  unfold State.heartbeat
  dsimp only
  split
  · exact h.setHb
  · exact h.setHb.inner (Inner.refl _).askVetAll
  · exact h.setHb.raise.inner (Inner.refl _).askVetAll

theorem heartbeatLost (h : Handed r s) : Handed r s.heartbeatLost := by
  unfold State.heartbeatLost
  exact h.setHb.raise.inner (Inner.refl _).askVetAll

theorem progress (h : Handed r s) {w : Word} : Handed r (s.progress w) := h.takeIndex.heartbeat

/-! ### Commits -/

/-- After the budget is recomputed the law of R91 holds, whatever held before. -/
theorem budget_rebudget (u : State) (t : Nat) : BudgetLaw (u.rebudget t) := by
  unfold State.rebudget
  dsimp only
  split <;> simp [BudgetLaw, State.granted]

theorem settingsCommitted (h : Handed r s) {n : Settings} : Handed r (s.settingsCommitted n) := by
  refine h.trans ?_
  have h2 : Inner { s with settings := n }
      (if s.settings.target == n.target then { s with settings := n } else State.rebudget { s with settings := n } s.settings.target) := by
    split
    · exact Inner.refl _
    · exact (Inner.refl _).rebudget
  have hb2 : BudgetLaw s → BudgetLaw
      (if s.settings.target == n.target then { s with settings := n } else State.rebudget { s with settings := n } s.settings.target) := by
    intro hl
    split
    · rename_i ht
      have ht' : s.settings.target = n.target := by simpa using ht
      simpa [BudgetLaw, State.granted, ht'] using hl
    · exact budget_rebudget _ _
  have hin : Inner (if s.settings.target == n.target then { s with settings := n }
      else State.rebudget { s with settings := n } s.settings.target) (s.settingsCommitted n) := by
    unfold State.settingsCommitted
    dsimp only
    generalize (if (s.settings.target == n.target) = true then { s with settings := n }
      else State.rebudget { s with settings := n } s.settings.target) = u
    have h3 : Inner u (if (s.settings.quantum == n.quantum) = true then u else u.newQuantum) := by
      split
      · exact Inner.refl _
      · exact (Inner.refl _).newQuantum
    split
    · exact h3
    · exact h3.eachBay fun _ _ hu => hu.recompute
  have h4 := h2.trans hin
  exact ⟨apart_of_outer (r := { s with settings := n }) h4.mild.outer, h4.mild.grown, fun hl => hin.mild.budget (hb2 hl), h4.mild.standing,
    h4.signal, h4.contactor, h4.asleep, h4.mild.tables,
    fun hp => Marks.trans (r := { s with settings := n }) (.silent rfl rfl fun _ => rfl) (h4.mild.marks hp)⟩

theorem setClasses (h : Handed r s) {x : Vector (Option ClassRow) 32} : Handed r { s with classes := x } :=
  h.same rfl (Grown.refl _) rfl rfl rfl (fun _ => rfl) rfl rfl rfl

theorem setClockSetCopy (h : Handed r s) {x : Option ClockSetRow} : Handed r { s with clockSetCopy := x } :=
  h.same rfl (Grown.refl _) rfl rfl rfl (fun _ => rfl) rfl rfl rfl

theorem setAckCopy (h : Handed r s) {x : Option AckRow} : Handed r { s with ackCopy := x } :=
  h.same rfl (Grown.refl _) rfl rfl rfl (fun _ => rfl) rfl rfl rfl

theorem setPlans (h : Handed r s) {x : Bays (Option PlanRow)} : Handed r { s with plans := x } :=
  h.same rfl (Grown.refl _) rfl rfl rfl (fun _ => rfl) rfl rfl rfl

theorem setOrderSeqs (h : Handed r s) {x : Bays (Option Nat)} : Handed r { s with orderSeqs := x } :=
  h.same rfl (Grown.refl _) rfl rfl rfl (fun _ => rfl) rfl rfl rfl

theorem planCommitted (h : Handed r s) {b : Bay} {x : PlanRow} : Handed r (s.planCommitted b x) := h.inner (Inner.refl _).planCommitted

theorem testOrder (h : Handed r s) {b : Bay} {w : Word} : Handed r (s.testOrder b w) := h.inner (Inner.refl _).testOrder

theorem classCommitted (h : Handed r s) {c : ClassIx} {x : ClassRow} : Handed r (s.classCommitted c x) := by
  unfold State.classCommitted
  refine Handed.inner (r := { s with classes := vset s.classes c (some x) }) h.setClasses ((Inner.refl _).eachBay ?_)
  intro u b hu
  split
  · exact hu.recompute.askVet
  · exact hu

theorem commitSettings (h : Handed r s) : Handed r s.commitSettings := by
  unfold State.commitSettings
  split
  · exact h.settingsCommitted
  · exact h.inner (Inner.refl _).rejectRow

theorem commitClockSet (h : Handed r s) : Handed r s.commitClockSet := by
  unfold State.commitClockSet
  split
  · exact h.setClockSetCopy.clockSet
  · exact h.inner (Inner.refl _).rejectRow

theorem commitAck (h : Handed r s) : Handed r s.commitAck := by
  unfold State.commitAck
  split
  · exact h.setAckCopy.acknowledge
  · exact h.inner (Inner.refl _).rejectRow

theorem commitClass (h : Handed r s) {c : ClassIx} : Handed r (s.commitClass c) := by
  unfold State.commitClass
  split
  · exact h.classCommitted
  · exact h.inner (Inner.refl _).rejectRow

theorem commitPlan (h : Handed r s) {b : Bay} : Handed r (s.commitPlan b) := by
  unfold State.commitPlan
  split
  · exact h.setPlans.planCommitted
  · exact h.inner (Inner.refl _).rejectRow

theorem takeOrder (h : Handed r s) {b : Bay} {w : Word} : Handed r (s.takeOrder b w) := by
  unfold State.takeOrder
  split
  · exact h
  · exact h.setOrderSeqs.testOrder

/-- What an accepted write does beyond staging (R35, R37). -/
theorem handOn (h : Handed r s) {a : Area} : Handed r (s.handOn a) := by
  unfold State.handOn
  split
  · split
    · exact h.commitSettings
    · exact h
  · split
    · exact h.commitClockSet
    · exact h
  · exact h.clockTrim
  · exact h.progress
  · split
    · exact h.commitAck
    · exact h
  · split
    · exact h.commitClass
    · exact h
  · split
    · exact h.commitPlan
    · exact h
  · exact h.takeOrder
  all_goals exact h

end Handed
end Sys2Proof.Machine
end

