-- ==== Sys2Proof/Laws/Hunt.lean ====
section
/-! SUPPORT. What the hunt of the Link Engine makes of a whole well-formed frame (R142), which a command about a reply comes to. -/

namespace Sys2Proof.Machine

/-- Past the four bytes of its header, a frame without framing errors runs to its last byte, and is then the reply if it is well-formed. -/
theorem hunt_body (r : Request) (seq : Nat) (k sq len : Byte) (y : Reply) : ∀ (b a : List Byte), b ≠ [] →
    (a ++ b).length = len.toNat + 2 → parseReply r seq (0xC3 :: k :: sq :: len :: (a ++ b)) = some y →
    hunt r seq (0xC3 :: k :: sq :: len :: a) (onLine b) = .reply y := by
  intro b
  induction b with
  | nil => intro a h; exact absurd rfl h
  | cons x rest ih =>
    intro a _ hl hp
    have hb : huntByte (0xC3 :: k :: sq :: len :: a) ⟨x, true⟩ = 0xC3 :: k :: sq :: len :: (a ++ [x]) := by simp [huntByte]
    cases rest with
    | nil =>
      have hc : frameComplete (0xC3 :: k :: sq :: len :: (a ++ [x])) = true := by simpa [frameComplete] using hl
      show hunt r seq _ (⟨x, true⟩ :: []) = _
      rw [hunt, hb, if_pos hc, hp]
    | cons z zs =>
      have hc : ¬ frameComplete (0xC3 :: k :: sq :: len :: (a ++ [x])) = true := by
        simp only [frameComplete, beq_iff_eq, List.length_append, List.length_cons, List.length_nil] at hl ⊢; omega
      show hunt r seq _ (⟨x, true⟩ :: onLine (z :: zs)) = _
      rw [hunt, hb, if_neg hc]
      exact ih (a ++ [x]) (by simp) (by simpa using hl) (by simpa using hp)

/-- A frame is well-formed only with the lead byte, a length of at most 24, and two bytes after its payload (R140, R141). -/
theorem parseReply_shape {r : Request} {seq : Nat} {f : List Byte} {y : Reply} (h : parseReply r seq f = some y) :
    ∃ k sq len rest, f = 0xC3 :: k :: sq :: len :: rest ∧ len.toNat ≤ 24 ∧ rest.length = len.toNat + 2 := by
  unfold parseReply at h
  split at h
  next lead k sq len rest =>
    simp only [Bool.and_eq_true, beq_iff_eq, decide_eq_true_eq] at h
    split at h
    next hc =>
      obtain ⟨⟨⟨⟨⟨h1, h2⟩, h3⟩, h4⟩, -⟩, -⟩ := hc
      refine ⟨k, sq, len, rest, by rw [h1]; rfl, h2, ?_⟩
      have hd := congrArg List.length h4
      simp only [List.length_drop, List.length_cons, List.length_nil, List.length_take] at hd h3
      omega
    next => cases h
  next => cases h

/-- A whole well-formed frame that arrives while the Link Engine hunts between frames is the reply (R142). -/
theorem hunt_reply {r : Request} {seq : Nat} {f : List Byte} {y : Reply} (h : parseReply r seq f = some y) :
    hunt r seq [] (onLine f) = .reply y := by
  obtain ⟨k, sq, len, rest, rfl, h24, hl⟩ := parseReply_shape h
  have hne : rest ≠ [] := by rintro rfl; simp at hl
  show hunt r seq [] (⟨0xC3, true⟩ :: ⟨k, true⟩ :: ⟨sq, true⟩ :: ⟨len, true⟩ :: onLine rest) = _
  simp only [hunt, huntByte, frameComplete, h24]
  simpa [frameComplete] using hunt_body r seq k sq len y rest [] hne (by simpa using hl) (by simpa using h)

/-- A whole well-formed frame answers the exchange that waits for it between frames (R142, R143). -/
theorem State.receiveFrame_reply {s : State} {ch : LinkIx} {x : Exchange} {due : Nat} {f : List Byte} {y : Reply}
    (hx : (s.link ch).exch = some x) (hw : x.state = .waiting due []) (hp : parseReply x.request (s.link ch).seq f = some y) :
    s.receiveFrame ch f = s.replied ch x y := by
  simp only [State.receiveFrame, State.receive, hx, hw, hunt_reply hp]

/-- Bytes that arrive while no reply is awaited are ignored (R139). -/
theorem State.receive_ignored {s : State} {ch : LinkIx} {input : List LineByte}
    (h : ∀ x due got, (s.link ch).exch = some x → x.state ≠ .waiting due got) : s.receive ch input = s := by
  unfold State.receive
  split
  next x hx => split
               next due got hw => exact absurd hw (h x due got hx)
               next => rfl
               next => rfl
  next => rfl

end Sys2Proof.Machine
end

