-- ==== Sys2Proof/Laws/Local.lean ====
section
/-! SUPPORT. `Local b r s`: an act of the blocks for bay `b`. What the other bays' records hold it leaves alone; examinations and vettings
that reach other bays are left to the agenda (log 15). One lemma per definition, by its body. -/

namespace Sys2Proof.Machine

open Sys2Proof.Config

/-- A pool record apart from the link used mark, which every request sent on a channel sets for its holder (R142). -/
def ActRec.apart (a : ActRec) : ActRec := { a with linkUsed := false }

/-- The records of every bay but `b` are as they were. -/
structure Local (b : Bay) (r s : State) : Prop where
  bay : ∀ b', b' ≠ b → s.bay b' = r.bay b'
  ctr : ∀ b', b' ≠ b → s.ctr b' = r.ctr b'
  claim : ∀ b', b' ≠ b → s.claim b' = r.claim b'
  session : ∀ b', b' ≠ b → s.session b' = r.session b'
  table : ∀ b', b' ≠ b → s.table b' = r.table b'
  summary : ∀ b', b' ≠ b → s.summary b' = r.summary b'
  lampWorkOf : ∀ b', b' ≠ b → s.lampWorkOf b' = r.lampWorkOf b'
  lampResult : ∀ b', b' ≠ b → s.lampResult b' = r.lampResult b'
  clearance : ∀ b', b' ≠ b → s.clearance b' = r.clearance b'
  act : ∀ b' k, b' ≠ b → (s.act b' k).apart = (r.act b' k).apart
  reads : ∀ b', b' ≠ b → vget s.reads b' = vget r.reads b'

namespace Local

variable {b : Bay} {r s : State}

theorem refl (b : Bay) (s : State) : Local b s s :=
  ⟨fun _ _ => rfl, fun _ _ => rfl, fun _ _ => rfl, fun _ _ => rfl, fun _ _ => rfl, fun _ _ => rfl, fun _ _ => rfl, fun _ _ => rfl, fun _ _ => rfl, fun _ _ _ => rfl, fun _ _ => rfl⟩

theorem trans {q : State} (h : Local b q r) (k : Local b r s) : Local b q s :=
  ⟨fun b' hb => (k.bay b' hb).trans (h.bay b' hb),
   fun b' hb => (k.ctr b' hb).trans (h.ctr b' hb),
   fun b' hb => (k.claim b' hb).trans (h.claim b' hb),
   fun b' hb => (k.session b' hb).trans (h.session b' hb),
   fun b' hb => (k.table b' hb).trans (h.table b' hb),
   fun b' hb => (k.summary b' hb).trans (h.summary b' hb),
   fun b' hb => (k.lampWorkOf b' hb).trans (h.lampWorkOf b' hb),
   fun b' hb => (k.lampResult b' hb).trans (h.lampResult b' hb),
   fun b' hb => (k.clearance b' hb).trans (h.clearance b' hb),
   fun b' x hb => (k.act b' x hb).trans (h.act b' x hb), fun b' hb => (k.reads b' hb).trans (h.reads b' hb)⟩

/-- Nothing of any bay's records changes. -/
theorem keep (h : Local b r s) {u : State} (h0 : u.bays = s.bays) (h1 : u.ctrs = s.ctrs) (h2 : u.claims = s.claims) (h3 : u.sessions = s.sessions) (h4 : u.tables = s.tables) (h5 : u.summaries = s.summaries) (h6 : u.lampWork = s.lampWork) (h7 : u.lampRes = s.lampRes) (h8 : u.clr = s.clr) (h9 : u.lampActs = s.lampActs) (h10 : u.faultActs = s.faultActs) (h11 : u.reads = s.reads) : Local b r u := by
  refine h.trans ⟨?_, ?_, ?_, ?_, ?_, ?_, ?_, ?_, ?_, ?_, ?_⟩
  · intro b' _; simp only [State.bay, h0]
  · intro b' _; simp only [State.ctr, h1]
  · intro b' _; simp only [State.claim, h2]
  · intro b' _; simp only [State.session, h3]
  · intro b' _; simp only [State.table, h4]
  · intro b' _; simp only [State.summary, h5]
  · intro b' _; simp only [State.lampWorkOf, h6]
  · intro b' _; simp only [State.lampResult, h7]
  · intro b' _; simp only [State.clearance, h8]
  · intro b' k _; cases k <;> simp only [State.act, h9, h10]
  · intro b' _; rw [h11]

theorem askAdmission (h : Local b r s)  : Local b r (s.askAdmission) :=
  h.keep (by simp) (by simp) (by simp) (by simp) (by simp) (by simp) (by simp) (by simp) (by simp) (by simp) (by simp) (by simp)
theorem askLoad (h : Local b r s) {x y : Bool} : Local b r (s.askLoad x y) :=
  h.keep (by simp) (by simp) (by simp) (by simp) (by simp) (by simp) (by simp) (by simp) (by simp) (by simp) (by simp) (by simp)
theorem askPool (h : Local b r s)  : Local b r (s.askPool) :=
  h.keep (by simp) (by simp) (by simp) (by simp) (by simp) (by simp) (by simp) (by simp) (by simp) (by simp) (by simp) (by simp)
theorem askVet (h : Local b r s) {b1 : Bay} : Local b r (s.askVet b1) :=
  h.keep (by simp) (by simp) (by simp) (by simp) (by simp) (by simp) (by simp) (by simp) (by simp) (by simp) (by simp) (by simp)
theorem askVetIf (h : Local b r s) {b1 : Bay} {c : Bool} : Local b r (s.askVetIf b1 c) :=
  h.keep (by simp) (by simp) (by simp) (by simp) (by simp) (by simp) (by simp) (by simp) (by simp) (by simp) (by simp) (by simp)
theorem raise (h : Local b r s) {k : Kind} {o : Option Bay} {d q : Nat} : Local b r (s.raise k o d q) :=
  h.keep (by simp) (by simp) (by simp) (by simp) (by simp) (by simp) (by simp) (by simp) (by simp) (by simp) (by simp) (by simp)
theorem setLink (h : Local b r s) {c : LinkIx} {x : LinkChannel} : Local b r (s.setLink c x) :=
  h.keep (by simp) (by simp) (by simp) (by simp) (by simp) (by simp) (by simp) (by simp) (by simp) (by simp) (by simp) (by simp)
theorem setLampCh (h : Local b r s) {c : LampIx} {x : LampChannel} : Local b r (s.setLampCh c x) :=
  h.keep (by simp) (by simp) (by simp) (by simp) (by simp) (by simp) (by simp) (by simp) (by simp) (by simp) (by simp) (by simp)
theorem markBlock (h : Local b r s) {b1 : Bay} {c : Bool} : Local b r (s.markBlock b1 c) :=
  h.keep (by simp) (by simp) (by simp) (by simp) (by simp) (by simp) (by simp) (by simp) (by simp) (by simp) (by simp) (by simp)
theorem markRow (h : Local b r s) {b1 : Bay} {c : Bool} : Local b r (s.markRow b1 c) :=
  h.keep (by simp) (by simp) (by simp) (by simp) (by simp) (by simp) (by simp) (by simp) (by simp) (by simp) (by simp) (by simp)
theorem setAdmList (h : Local b r s) {x : List AEntry} : Local b r { s with admList := x } := h.keep rfl rfl rfl rfl rfl rfl rfl rfl rfl rfl rfl rfl
theorem setAdmCounter (h : Local b r s) {x : Nat} : Local b r { s with admCounter := x } := h.keep rfl rfl rfl rfl rfl rfl rfl rfl rfl rfl rfl rfl
theorem setPoolList (h : Local b r s) {x : List CEntry} : Local b r { s with poolList := x } := h.keep rfl rfl rfl rfl rfl rfl rfl rfl rfl rfl rfl rfl
theorem setPool (h : Local b r s) {x : List CEntry} {y : Nat} : Local b r { s with poolList := x, poolCounter := y } := h.keep rfl rfl rfl rfl rfl rfl rfl rfl rfl rfl rfl rfl
theorem setReservation (h : Local b r s) {x : Option Bay} : Local b r { s with reservation := x } := h.keep rfl rfl rfl rfl rfl rfl rfl rfl rfl rfl rfl rfl
theorem setResTimer (h : Local b r s) {x : Option (Bay × Nat)} : Local b r { s with resTimer := x } := h.keep rfl rfl rfl rfl rfl rfl rfl rfl rfl rfl rfl rfl
theorem setReserve (h : Local b r s) {x : Option Bay} {y : Option (Bay × Nat)} : Local b r { s with reservation := x, resTimer := y } := h.keep rfl rfl rfl rfl rfl rfl rfl rfl rfl rfl rfl rfl
theorem setBay (h : Local b r s) {x : BayRec} : Local b r (s.setBay b x) := by
  refine h.trans ⟨?_, ?_, ?_, ?_, ?_, ?_, ?_, ?_, ?_, ?_, ?_⟩
  · intro b' hb; simp [State.bay, Ne.symm hb]
  · intro b' _; simp [State.ctr]
  · intro b' _; simp [State.claim]
  · intro b' _; simp [State.session]
  · intro b' _; simp [State.table]
  · intro b' _; simp [State.summary]
  · intro b' _; simp [State.lampWorkOf]
  · intro b' _; simp [State.lampResult]
  · intro b' _; simp [State.clearance]
  · intro b' k _; cases k <;> simp [State.act]
  · intro b' _; simp

theorem setCtr (h : Local b r s) {x : Contactor} : Local b r (s.setCtr b x) := by
  refine h.trans ⟨?_, ?_, ?_, ?_, ?_, ?_, ?_, ?_, ?_, ?_, ?_⟩
  · intro b' _; simp [State.bay]
  · intro b' hb; simp [State.ctr, Ne.symm hb]
  · intro b' _; simp [State.claim]
  · intro b' _; simp [State.session]
  · intro b' _; simp [State.table]
  · intro b' _; simp [State.summary]
  · intro b' _; simp [State.lampWorkOf]
  · intro b' _; simp [State.lampResult]
  · intro b' _; simp [State.clearance]
  · intro b' k _; cases k <;> simp [State.act]
  · intro b' _; simp

theorem setClaim (h : Local b r s) {x : ClaimRec} : Local b r (s.setClaim b x) := by
  refine h.trans ⟨?_, ?_, ?_, ?_, ?_, ?_, ?_, ?_, ?_, ?_, ?_⟩
  · intro b' _; simp [State.bay]
  · intro b' _; simp [State.ctr]
  · intro b' hb; simp [State.claim, Ne.symm hb]
  · intro b' _; simp [State.session]
  · intro b' _; simp [State.table]
  · intro b' _; simp [State.summary]
  · intro b' _; simp [State.lampWorkOf]
  · intro b' _; simp [State.lampResult]
  · intro b' _; simp [State.clearance]
  · intro b' k _; cases k <;> simp [State.act]
  · intro b' _; simp

theorem setSession (h : Local b r s) {x : Session} : Local b r (s.setSession b x) := by
  refine h.trans ⟨?_, ?_, ?_, ?_, ?_, ?_, ?_, ?_, ?_, ?_, ?_⟩
  · intro b' _; simp [State.bay]
  · intro b' _; simp [State.ctr]
  · intro b' _; simp [State.claim]
  · intro b' hb; simp [State.session, Ne.symm hb]
  · intro b' _; simp [State.table]
  · intro b' _; simp [State.summary]
  · intro b' _; simp [State.lampWorkOf]
  · intro b' _; simp [State.lampResult]
  · intro b' _; simp [State.clearance]
  · intro b' k _; cases k <;> simp [State.act]
  · intro b' _; simp

theorem setLampWork (h : Local b r s) {x : LampWork} : Local b r (s.setLampWork b x) := by
  refine h.trans ⟨?_, ?_, ?_, ?_, ?_, ?_, ?_, ?_, ?_, ?_, ?_⟩
  · intro b' _; simp [State.bay]
  · intro b' _; simp [State.ctr]
  · intro b' _; simp [State.claim]
  · intro b' _; simp [State.session]
  · intro b' _; simp [State.table]
  · intro b' _; simp [State.summary]
  · intro b' hb; simp [State.lampWorkOf, Ne.symm hb]
  · intro b' _; simp [State.lampResult]
  · intro b' _; simp [State.clearance]
  · intro b' k _; cases k <;> simp [State.act]
  · intro b' _; simp

theorem setLampResult (h : Local b r s) {x : LampResult} : Local b r (s.setLampResult b x) := by
  refine h.trans ⟨?_, ?_, ?_, ?_, ?_, ?_, ?_, ?_, ?_, ?_, ?_⟩
  · intro b' _; simp [State.bay]
  · intro b' _; simp [State.ctr]
  · intro b' _; simp [State.claim]
  · intro b' _; simp [State.session]
  · intro b' _; simp [State.table]
  · intro b' _; simp [State.summary]
  · intro b' _; simp [State.lampWorkOf]
  · intro b' hb; simp [State.lampResult, Ne.symm hb]
  · intro b' _; simp [State.clearance]
  · intro b' k _; cases k <;> simp [State.act]
  · intro b' _; simp

theorem setSummary (h : Local b r s) {x : FaultSummary} : Local b r (s.setSummary b x) := by
  refine h.trans ⟨?_, ?_, ?_, ?_, ?_, ?_, ?_, ?_, ?_, ?_, ?_⟩
  · intro b' _; simp [State.bay]
  · intro b' _; simp [State.ctr]
  · intro b' _; simp [State.claim]
  · intro b' _; simp [State.session]
  · intro b' _; simp [State.table]
  · intro b' hb; simp [State.summary, Ne.symm hb]
  · intro b' _; simp [State.lampWorkOf]
  · intro b' _; simp [State.lampResult]
  · intro b' _; simp [State.clearance]
  · intro b' k _; cases k <;> simp [State.act]
  · intro b' _; simp

theorem setClearance (h : Local b r s) {x : Clearance} : Local b r (s.setClearance b x) := by
  refine h.trans ⟨?_, ?_, ?_, ?_, ?_, ?_, ?_, ?_, ?_, ?_, ?_⟩
  · intro b' _; simp [State.bay]
  · intro b' _; simp [State.ctr]
  · intro b' _; simp [State.claim]
  · intro b' _; simp [State.session]
  · intro b' _; simp [State.table]
  · intro b' _; simp [State.summary]
  · intro b' _; simp [State.lampWorkOf]
  · intro b' _; simp [State.lampResult]
  · intro b' hb; simp [State.clearance, Ne.symm hb]
  · intro b' k _; cases k <;> simp [State.act]
  · intro b' _; simp

theorem setAct (h : Local b r s) {k : Activity} {x : ActRec} : Local b r (s.setAct b k x) := by
  refine h.trans ⟨?_, ?_, ?_, ?_, ?_, ?_, ?_, ?_, ?_, ?_, ?_⟩
  · intro b' _; simp [State.bay]
  · intro b' _; simp [State.ctr]
  · intro b' _; simp [State.claim]
  · intro b' _; simp [State.session]
  · intro b' _; simp [State.table]
  · intro b' _; simp [State.summary]
  · intro b' _; simp [State.lampWorkOf]
  · intro b' _; simp [State.lampResult]
  · intro b' _; simp [State.clearance]
  · intro b' j hb; simp [setAct_act, Ne.symm hb]
  · intro b' _; simp

theorem setTables (h : Local b r s) {t : FaultTable} : Local b r { s with tables := vset s.tables b t } := by
  refine h.trans ⟨?_, ?_, ?_, ?_, ?_, ?_, ?_, ?_, ?_, ?_, ?_⟩
  · intro b' hb; rfl
  · intro b' hb; rfl
  · intro b' hb; rfl
  · intro b' hb; rfl
  · intro b' hb; simp [State.table, Ne.symm hb]
  · intro b' hb; rfl
  · intro b' hb; rfl
  · intro b' hb; rfl
  · intro b' hb; rfl
  · intro b' k _; rfl
  · intro b' _; rfl

theorem setRead (h : Local b r s) {t : ReadWork} : Local b r (s.setRead b t) := by
  refine h.trans ⟨?_, ?_, ?_, ?_, ?_, ?_, ?_, ?_, ?_, ?_, ?_⟩
  · intro b' hb; rfl
  · intro b' hb; rfl
  · intro b' hb; rfl
  · intro b' hb; rfl
  · intro b' hb; rfl
  · intro b' hb; rfl
  · intro b' hb; rfl
  · intro b' hb; rfl
  · intro b' hb; rfl
  · intro b' k _; cases k <;> rfl
  · intro b' hb; simp [State.setRead, Ne.symm hb]

theorem rebudget (h : Local b r s) {t : Nat} : Local b r (s.rebudget t) := by
  unfold State.rebudget; dsimp only
  split <;> exact h.keep (by simp) (by simp) (by simp) (by simp) (by simp) (by simp) (by simp) (by simp) (by simp) (by simp) (by simp) (by simp)

theorem setTable (h : Local b r s) {t : FaultTable} : Local b r (s.setTable b t) := by
  unfold State.setTable
  exact h.setTables.markBlock.askVetIf.setSummary

/-- Sending a request marks the holder's link as used, whichever bay it is (R142). -/
theorem send (h : Local b r s) {ch : LinkIx} {q : Request} {x : Bool} : Local b r (s.send ch q x) := by
  unfold State.send
  dsimp only
  split
  · rename_i b1 k hk
    have h1 : Local b r (s.setLink ch { s.link ch with seq := ((s.link ch).seq + 1) % 16, exch := some ⟨q, 1, .sending, x, s.timeBase⟩ }) :=
      h.setLink
    generalize s.setLink ch _ = u at h1 ⊢
    refine h1.trans ⟨?_, ?_, ?_, ?_, ?_, ?_, ?_, ?_, ?_, ?_, ?_⟩
    · intro b' _; simp [State.bay]
    · intro b' _; simp [State.ctr]
    · intro b' _; simp [State.claim]
    · intro b' _; simp [State.session]
    · intro b' _; simp [State.table]
    · intro b' _; simp [State.summary]
    · intro b' _; simp [State.lampWorkOf]
    · intro b' _; simp [State.lampResult]
    · intro b' _; simp [State.clearance]
    · intro b' j hb
      rw [setAct_act]
      split
      · rename_i hc; obtain ⟨rfl, rfl⟩ := hc; rfl
      · rfl
    · intro b' _; simp
  · exact h.setLink

/-! ### Admission -/

theorem returnStanding (h : Local b r s)  : Local b r (s.returnStanding b) := by
  unfold State.returnStanding
  try dsimp only
  repeat' (first | with_reducible exact h | with_reducible apply Local.setClaim | with_reducible apply Local.rebudget | split)

theorem returnComponent (h : Local b r s)  {p : Purpose} : Local b r (s.returnComponent b p) := by
  unfold State.returnComponent
  try dsimp only
  repeat' (first | with_reducible exact h | with_reducible apply Local.setClaim | with_reducible apply Local.rebudget | with_reducible apply Local.returnStanding | split)

theorem withdraw (h : Local b r s)  {p : Purpose} : Local b r (s.withdraw b p) := by
  unfold State.withdraw
  try dsimp only
  repeat' (first | with_reducible exact h | with_reducible apply Local.askAdmission | split | with_reducible apply Local.setAdmList)

theorem placeAdm (h : Local b r s)  {p : Purpose} {n : Nat} : Local b r (s.placeAdm b p n) := by
  unfold State.placeAdm
  try dsimp only
  repeat' (first | with_reducible exact h | with_reducible apply Local.askAdmission | split | with_reducible apply Local.setAdmList)

theorem request (h : Local b r s)  {p : Purpose} {n : Option Nat} : Local b r (s.request b p n) := by
  unfold State.request
  try dsimp only
  repeat' (first | with_reducible exact h | with_reducible apply Local.placeAdm | split | with_reducible apply Local.setAdmCounter)

theorem relevelClaim (h : Local b r s)  : Local b r (s.relevelClaim b) := by
  unfold State.relevelClaim
  try dsimp only
  repeat' (first | with_reducible exact h | with_reducible apply Local.askLoad | with_reducible apply Local.setClaim | with_reducible apply Local.askAdmission | split)

/-! ### Channels -/

theorem testReservation (h : Local b r s)  : Local b r (s.testReservation) := by
  unfold State.testReservation
  try dsimp only
  repeat' (first | with_reducible exact h | split | with_reducible apply Local.setReserve | with_reducible apply Local.setReservation | with_reducible apply Local.setResTimer)

theorem endReservation (h : Local b r s)  {act : Activity} : Local b r (s.endReservation b act) := by
  unfold State.endReservation
  try dsimp only
  repeat' (first | with_reducible exact h | with_reducible apply Local.askPool | split | with_reducible apply Local.setReservation)

theorem removeChan (h : Local b r s)  {act : Activity} : Local b r (s.removeChan b act) := by
  unfold State.removeChan
  try dsimp only
  repeat' (first | with_reducible exact h | with_reducible apply Local.endReservation | with_reducible apply Local.testReservation | split | with_reducible apply Local.setPoolList)

theorem relevelChans (h : Local b r s) {t : Bay → Bool} : Local b r (s.relevelChans t) := by
  unfold State.relevelChans
  try dsimp only
  repeat' (first | with_reducible exact h | with_reducible apply Local.testReservation | with_reducible apply Local.askPool | split | with_reducible apply Local.setPoolList)

theorem placeChan (h : Local b r s)  {act : Activity} : Local b r (s.placeChan b act) := by
  unfold State.placeChan
  try dsimp only
  repeat' (first | with_reducible exact h | with_reducible apply Local.setAct | with_reducible apply Local.testReservation | with_reducible apply Local.askPool | split | with_reducible apply Local.setPool | with_reducible apply Local.setPoolList)

/-! ### ClearanceRecord -/

theorem setSignal (h : Local b r s)  {proceed : Bool} : Local b r (s.setSignal b proceed) := by
  unfold State.setSignal
  try dsimp only
  repeat' (first | with_reducible exact h | with_reducible apply Local.setBay | split)

theorem raiseOutcome (h : Local b r s)  {o : ClrOutcome} {reasons : Reasons} {seq : Nat} : Local b r (s.raiseOutcome b o reasons seq) := by
  unfold State.raiseOutcome
  try dsimp only
  repeat' (first | with_reducible exact h | with_reducible apply Local.raise | split)

theorem endClearance (h : Local b r s)  {o : ClrOutcome} {reasons : Reasons} : Local b r (s.endClearance b o reasons) := by
  unfold State.endClearance
  try dsimp only
  repeat' (first | with_reducible exact h | with_reducible apply Local.setClearance | with_reducible apply Local.relevelChans | with_reducible apply Local.setSignal | with_reducible apply Local.raiseOutcome | with_reducible apply Local.request | split)

/-! ### Contactor -/

theorem moveCtr (h : Local b r s)  {st : CtrState} {limit : Timer} : Local b r (s.moveCtr b st limit) := by
  unfold State.moveCtr
  try dsimp only
  repeat' (first | with_reducible exact h | with_reducible apply Local.setCtr | with_reducible apply Local.askVetIf | with_reducible apply Local.endClearance | split)

theorem driveClosed (h : Local b r s)  : Local b r (s.driveClosed b) := by
  unfold State.driveClosed
  try dsimp only
  repeat' (first | with_reducible exact h | with_reducible apply Local.moveCtr | split)

theorem openingEnds (h : Local b r s)  : Local b r (s.openingEnds b) := by
  unfold State.openingEnds
  try dsimp only
  repeat' (first | with_reducible exact h | with_reducible apply Local.moveCtr | with_reducible apply Local.returnStanding | with_reducible apply Local.driveClosed | split)

theorem driveOpen (h : Local b r s)  : Local b r (s.driveOpen b) := by
  unfold State.driveOpen
  try dsimp only
  repeat' (first | with_reducible exact h | with_reducible apply Local.moveCtr | with_reducible apply Local.openingEnds | split)

theorem claimCtr (h : Local b r s)  {p : Purpose} : Local b r (s.claimCtr b p) := by
  unfold State.claimCtr
  try dsimp only
  repeat' (first | with_reducible exact h | with_reducible apply Local.setCtr | with_reducible apply Local.driveClosed | with_reducible apply Local.moveCtr | split)

theorem releaseCtr (h : Local b r s)  {p : Purpose} : Local b r (s.releaseCtr b p) := by
  unfold State.releaseCtr
  try dsimp only
  repeat' (first | with_reducible exact h | with_reducible apply Local.setCtr | with_reducible apply Local.driveOpen | split)

theorem emptySet (h : Local b r s)  : Local b r (s.emptySet b) := by
  unfold State.emptySet
  try dsimp only
  repeat' (first | with_reducible exact h | with_reducible apply Local.setCtr | split)

/-! ### Heat -/

theorem stopCount (h : Local b r s)  : Local b r (s.stopCount b) := by
  unfold State.stopCount
  try dsimp only
  repeat' (first | with_reducible exact h | with_reducible apply Local.setSession | split)

theorem dropSupply (h : Local b r s)  : Local b r (s.dropSupply b) := by
  unfold State.dropSupply
  try dsimp only
  repeat' (first | with_reducible exact h | with_reducible apply Local.releaseCtr | with_reducible apply Local.returnComponent | with_reducible apply Local.withdraw | split)

theorem askSupply (h : Local b r s)  : Local b r (s.askSupply b) := by
  unfold State.askSupply
  try dsimp only
  repeat' (first | with_reducible exact h | with_reducible apply Local.request | with_reducible apply Local.setSession | split)

theorem completeSession (h : Local b r s)  {late : Bool} : Local b r (s.completeSession b late) := by
  unfold State.completeSession
  try dsimp only
  repeat' (first | with_reducible exact h | with_reducible apply Local.stopCount | with_reducible apply Local.dropSupply | with_reducible apply Local.setSession | with_reducible apply Local.raise | split)

theorem completeIfFull (h : Local b r s)  : Local b r (s.completeIfFull b) := by
  unfold State.completeIfFull
  try dsimp only
  repeat' (first | with_reducible exact h | with_reducible apply Local.completeSession | split)

theorem startTest (h : Local b r s)  : Local b r (s.startTest b) := by
  unfold State.startTest
  try dsimp only
  repeat' (first | with_reducible exact h | with_reducible apply Local.completeSession | with_reducible apply Local.setSession | with_reducible apply Local.askSupply | split)

theorem zeroTest (h : Local b r s)  : Local b r (s.zeroTest b) := by
  unfold State.zeroTest
  try dsimp only
  repeat' (first | with_reducible exact h | with_reducible apply Local.completeSession | split)

theorem recompute (h : Local b r s)  : Local b r (s.recompute b) := by
  unfold State.recompute
  try dsimp only
  repeat' (first | with_reducible exact h | with_reducible apply Local.setSession | with_reducible apply Local.startTest | with_reducible apply Local.zeroTest | split)

theorem newSession (h : Local b r s)  {ready : Option Nat} : Local b r (s.newSession b ready) := by
  unfold State.newSession
  try dsimp only
  repeat' (first | with_reducible exact h | with_reducible apply Local.setSession | with_reducible apply Local.startTest | split)

theorem enterHeating (h : Local b r s)  : Local b r (s.enterHeating b) := by
  unfold State.enterHeating
  try dsimp only
  repeat' (first | with_reducible exact h | with_reducible apply Local.setCtr | with_reducible apply Local.setSession | with_reducible apply Local.raise | split)

theorem heatGranted (h : Local b r s)  : Local b r (s.heatGranted b) := by
  unfold State.heatGranted
  try dsimp only
  repeat' (first | with_reducible exact h | with_reducible apply Local.setSession | with_reducible apply Local.claimCtr | with_reducible apply Local.enterHeating | with_reducible apply Local.returnComponent | split)

theorem heatRefused (h : Local b r s)  : Local b r (s.heatRefused b) := by
  unfold State.heatRefused
  try dsimp only
  repeat' (first | with_reducible exact h | with_reducible apply Local.setSession | split)

theorem heatShed (h : Local b r s)  : Local b r (s.heatShed b) := by
  unfold State.heatShed
  try dsimp only
  repeat' (first | with_reducible exact h | with_reducible apply Local.stopCount | with_reducible apply Local.releaseCtr | with_reducible apply Local.setSession | with_reducible apply Local.completeIfFull | with_reducible apply Local.withdraw | split)

theorem heatPlugOut (h : Local b r s)  : Local b r (s.heatPlugOut b) := by
  unfold State.heatPlugOut
  try dsimp only
  repeat' (first | with_reducible exact h | with_reducible apply Local.setSession | with_reducible apply Local.completeIfFull | with_reducible apply Local.stopCount | with_reducible apply Local.returnComponent | with_reducible apply Local.dropSupply | split)

theorem heatPlugIn (h : Local b r s)  : Local b r (s.heatPlugIn b) := by
  unfold State.heatPlugIn
  try dsimp only
  repeat' (first | with_reducible exact h | with_reducible apply Local.setSession | with_reducible apply Local.askSupply | with_reducible apply Local.startTest | split)

theorem closeSession (h : Local b r s)  {st : SState} {why : HeatEnd} : Local b r (s.closeSession b st why) := by
  unfold State.closeSession
  try dsimp only
  repeat' (first | with_reducible exact h | with_reducible apply Local.setSession | with_reducible apply Local.raise | split)

theorem heatLost (h : Local b r s)  {why : HeatEnd} : Local b r (s.heatLost b why) := by
  unfold State.heatLost
  try dsimp only
  repeat' (first | with_reducible exact h | with_reducible apply Local.stopCount | with_reducible apply Local.returnComponent | with_reducible apply Local.closeSession | split)

theorem endSession (h : Local b r s)  {why : HeatEnd} : Local b r (s.endSession b why) := by
  unfold State.endSession
  try dsimp only
  repeat' (first | with_reducible exact h | with_reducible apply Local.stopCount | with_reducible apply Local.dropSupply | with_reducible apply Local.closeSession | split)

theorem heatAmend (h : Local b r s)  {old : Option Nat} {new : Option Nat} : Local b r (s.heatAmend b old new) := by
  unfold State.heatAmend
  try dsimp only
  repeat' (first | with_reducible exact h | with_reducible apply Local.endSession | with_reducible apply Local.newSession | with_reducible apply Local.setSession | with_reducible apply Local.recompute | split)

theorem lateTest (h : Local b r s)  : Local b r (s.lateTest b) := by
  unfold State.lateTest
  try dsimp only
  repeat' (first | with_reducible exact h | with_reducible apply Local.setSession | with_reducible apply Local.raise | split)

theorem askAgain (h : Local b r s)  : Local b r (s.askAgain b) := by
  unfold State.askAgain
  try dsimp only
  repeat' (first | with_reducible exact h | with_reducible apply Local.askSupply | split)

theorem heatMinute (h : Local b r s)  : Local b r (s.heatMinute b) := by
  unfold State.heatMinute
  try dsimp only
  repeat' (first | with_reducible exact h | with_reducible apply Local.zeroTest | with_reducible apply Local.askAgain | with_reducible apply Local.startTest | with_reducible apply Local.lateTest | split)

/-! ### Link -/

theorem nextAttempt (h : Local b r s) {ch : LinkIx} : Local b r (s.nextAttempt ch) := by
  unfold State.nextAttempt
  try dsimp only
  repeat' (first | with_reducible exact h | with_reducible apply Local.setLink | split)

theorem openLink (h : Local b r s) {ch : LinkIx} : Local b r (s.openLink ch) := by
  unfold State.openLink
  try dsimp only
  repeat' (first | with_reducible exact h | with_reducible apply Local.setLink | with_reducible apply Local.send | split)

theorem quietLink (h : Local b r s) {ch : LinkIx} : Local b r (s.quietLink ch) := by
  unfold State.quietLink
  try dsimp only
  repeat' (first | with_reducible exact h | with_reducible apply Local.setLink | split)

theorem sendFor (h : Local b r s)  {act : Activity} {r' : Request} {single : Bool} : Local b r (s.sendFor b act r' single) := by
  unfold State.sendFor
  try dsimp only
  repeat' (first | with_reducible exact h | with_reducible apply Local.send | split)

/-! ### FaultTable -/

theorem mergeRecord (h : Local b r s)  {r' : FaultRecord} : Local b r (s.mergeRecord b r') := by
  unfold State.mergeRecord
  try dsimp only
  repeat' (first | with_reducible exact h | with_reducible apply Local.setTable | with_reducible apply Local.setSummary | with_reducible apply Local.setRead | split)

theorem mergePage (h : Local b r s) {rs : List FaultRecord} : Local b r (s.mergePage b rs) := by
  unfold State.mergePage
  induction rs generalizing s with
  | nil => exact h
  | cons x rs ih => exact ih h.mergeRecord

theorem startPages (h : Local b r s) {n : Nat} : Local b r (s.startPages b n) := by
  unfold State.startPages
  exact Local.setRead (h.setSummary.setTables)

theorem completeRead (h : Local b r s)  {erased : Bool} {refused : Bool} : Local b r (s.completeRead b erased refused) := by
  unfold State.completeRead
  try dsimp only
  repeat' (first | with_reducible exact h | with_reducible apply Local.setTable | with_reducible apply Local.setSummary | split)

theorem recordFault (h : Local b r s)  {code : EndCode} : Local b r (s.recordFault b code) := by
  unfold State.recordFault
  try dsimp only
  repeat' (first | with_reducible exact h | with_reducible apply Local.setSummary | with_reducible apply Local.raise | with_reducible apply Local.askVet | split)

theorem emptyFaults (h : Local b r s)  : Local b r (s.emptyFaults b) := by
  unfold State.emptyFaults
  try dsimp only
  repeat' (first | with_reducible exact h | with_reducible apply Local.setTable | with_reducible apply Local.setSummary | split)

/-! ### LampRecord -/

theorem recordLamp (h : Local b r s)  {code : EndCode} : Local b r (s.recordLamp b code) := by
  unfold State.recordLamp
  try dsimp only
  repeat' (first | with_reducible exact h | with_reducible apply Local.setLampResult | with_reducible apply Local.raise | with_reducible apply Local.askVet | split)

theorem recordJudgement (h : Local b r s)  {j : Judged} : Local b r (s.recordJudgement b j) := by
  unfold State.recordJudgement
  try dsimp only
  repeat' (first | with_reducible exact h | with_reducible apply Local.setLampResult | split)

theorem lampGiveUp (h : Local b r s)  : Local b r (s.lampGiveUp b) := by
  unfold State.lampGiveUp
  try dsimp only
  repeat' (first | with_reducible exact h | with_reducible apply Local.releaseCtr | with_reducible apply Local.returnComponent | with_reducible apply Local.setLampWork | split)

theorem emptyLampResult (h : Local b r s)  : Local b r (s.emptyLampResult b) := by
  unfold State.emptyLampResult
  try dsimp only
  repeat' (first | with_reducible exact h | with_reducible apply Local.setLampResult | split)

/-! ### Pool -/

theorem lampToLink (h : Local b r s)  : Local b r (s.lampToLink b) := by
  unfold State.lampToLink
  try dsimp only
  repeat' (first | with_reducible exact h | with_reducible apply Local.setLampWork | with_reducible apply Local.openLink | split)

theorem lampRunning (h : Local b r s)  : Local b r (s.lampRunning b) := by
  unfold State.lampRunning
  try dsimp only
  repeat' (first | with_reducible exact h | with_reducible apply Local.setLampWork | with_reducible apply Local.lampToLink | split)

theorem takeLampChannel (h : Local b r s)  : Local b r (s.takeLampChannel b) := by
  unfold State.takeLampChannel
  try dsimp only
  repeat' (first | with_reducible exact h | with_reducible apply Local.setLampCh | split)

theorem grantChannels (h : Local b r s)  {act : Activity} {ch : LinkIx} : Local b r (s.grantChannels b act ch) := by
  unfold State.grantChannels
  try dsimp only
  repeat' (first | with_reducible exact h | with_reducible apply Local.removeChan | with_reducible apply Local.setLink | with_reducible apply Local.takeLampChannel | with_reducible apply Local.setAct | with_reducible apply Local.lampRunning | with_reducible apply Local.openLink | split)

theorem freeLampChannel (h : Local b r s)  : Local b r (s.freeLampChannel b) := by
  unfold State.freeLampChannel
  try dsimp only
  repeat' (first | with_reducible exact h | with_reducible apply Local.setLampCh | with_reducible apply Local.setLampWork | split)

theorem freeLinkChannel (h : Local b r s)  {act : Activity} : Local b r (s.freeLinkChannel b act) := by
  unfold State.freeLinkChannel
  try dsimp only
  repeat' (first | with_reducible exact h | with_reducible apply Local.setLink | split)

theorem releaseChannels (h : Local b r s)  {act : Activity} : Local b r (s.releaseChannels b act) := by
  unfold State.releaseChannels
  try dsimp only
  repeat' (first | with_reducible exact h | with_reducible apply Local.freeLinkChannel | with_reducible apply Local.freeLampChannel | with_reducible apply Local.setAct | with_reducible apply Local.askPool | split)

theorem ownerEnds (h : Local b r s)  {act : Activity} {code : EndCode} : Local b r (s.ownerEnds b act code) := by
  unfold State.ownerEnds
  try dsimp only
  repeat' (first | with_reducible exact h | with_reducible apply Local.lampGiveUp | with_reducible apply Local.recordLamp | with_reducible apply Local.recordFault | split)

theorem endWaiting (h : Local b r s)  {act : Activity} {code : EndCode} : Local b r (s.endWaiting b act code) := by
  unfold State.endWaiting
  try dsimp only
  repeat' (first | with_reducible exact h | with_reducible apply Local.removeChan | with_reducible apply Local.withdraw | with_reducible apply Local.ownerEnds | with_reducible apply Local.setLampWork | with_reducible apply Local.setAct | split)

theorem leaveStep (h : Local b r s)  {act : Activity} : Local b r (s.leaveStep b act) := by
  unfold State.leaveStep
  try dsimp only
  repeat' (first | with_reducible exact h | with_reducible apply Local.setLampWork | split)

theorem handOver (h : Local b r s)  {closing : Activity} {ch : LinkIx} : Local b r (s.handOver b closing ch) := by
  unfold State.handOver
  try dsimp only
  repeat' (first | with_reducible exact h | with_reducible apply Local.freeLampChannel | with_reducible apply Local.setAct | with_reducible apply Local.grantChannels | with_reducible apply Local.askPool | split)

theorem closingStep (h : Local b r s)  {act : Activity} {code : EndCode} : Local b r (s.closingStep b act code) := by
  unfold State.closingStep
  try dsimp only
  repeat' (first | with_reducible exact h | with_reducible apply Local.ownerEnds | with_reducible apply Local.leaveStep | with_reducible apply Local.setAct | with_reducible apply Local.quietLink | with_reducible apply Local.releaseChannels | with_reducible apply Local.handOver | with_reducible apply Local.send | split)

theorem orderlyRelease (h : Local b r s)  {act : Activity} : Local b r (s.orderlyRelease b act) := by
  unfold State.orderlyRelease
  try dsimp only
  repeat' (first | with_reducible exact h | with_reducible apply Local.ownerEnds | with_reducible apply Local.releaseChannels | split)

theorem orderlyNext (h : Local b r s)  {act : Activity} {failed : Bool} : Local b r (s.orderlyNext b act failed) := by
  unfold State.orderlyNext
  try dsimp only
  repeat' (first | with_reducible exact h | with_reducible apply Local.orderlyRelease | with_reducible apply Local.sendFor | split)

theorem offEnded (h : Local b r s)  {o : Request} : Local b r (s.offEnded b o) := by
  unfold State.offEnded
  try dsimp only
  repeat' (first | with_reducible exact h | with_reducible apply Local.setLampWork | split)

theorem unask (h : Local b r s) {ch : LinkIx} : Local b r (s.unask ch) := by
  unfold State.unask
  try dsimp only
  repeat' (first | with_reducible exact h | with_reducible apply Local.setLink | split)

theorem stopExchange (h : Local b r s) {act : Activity} {ch : LinkIx} {x : Exchange} : Local b r (s.stopExchange b act ch x) := by
  unfold State.stopExchange
  try dsimp only
  repeat' (first | with_reducible exact h | with_reducible apply Local.unask | with_reducible apply Local.quietLink | with_reducible apply Local.offEnded | with_reducible apply Local.orderlyNext | split)

theorem endWake (h : Local b r s) {ch : LinkIx} : Local b r (s.endWake ch) := by
  unfold State.endWake
  try dsimp only
  repeat' (first | with_reducible exact h | with_reducible apply Local.setLink | split)

theorem stopOrderly (h : Local b r s) {act : Activity} : Local b r (s.stopOrderly b act) := by
  unfold State.stopOrderly
  try dsimp only
  repeat' (first | with_reducible exact h | with_reducible apply Local.setAct | with_reducible apply Local.leaveStep | with_reducible apply Local.endWake | with_reducible apply Local.stopExchange | with_reducible apply Local.orderlyNext | split)

theorem orderlyStop (h : Local b r s)  {act : Activity} {previous : Bool} : Local b r (s.orderlyStop b act previous) := by
  unfold State.orderlyStop
  try dsimp only
  repeat' (first | with_reducible exact h | with_reducible apply Local.setAct | with_reducible apply Local.endWaiting | with_reducible apply Local.stopOrderly | split)

theorem dropLink (h : Local b r s)  {act : Activity} {why : Option EndCode} : Local b r (s.dropLink b act why) := by
  unfold State.dropLink
  try dsimp only
  repeat' (first | with_reducible exact h | with_reducible apply Local.setLink | with_reducible apply Local.setAct | with_reducible apply Local.releaseChannels | split)

theorem immediateStop (h : Local b r s)  {act : Activity} {code : EndCode} : Local b r (s.immediateStop b act code) := by
  unfold State.immediateStop
  try dsimp only
  repeat' (first | with_reducible exact h | with_reducible apply Local.endWaiting | with_reducible apply Local.ownerEnds | with_reducible apply Local.leaveStep | with_reducible apply Local.dropLink | split)

/-! ### Procedure -/

theorem wakeAgain (h : Local b r s) {ch : LinkIx} {began : Nat} : Local b r (s.wakeAgain ch began) := by
  unfold State.wakeAgain
  try dsimp only
  repeat' (first | with_reducible exact h | with_reducible apply Local.send | with_reducible apply Local.setLink | split)

theorem wakeEnded (h : Local b r s)  {act : Activity} {ch : LinkIx} {began : Nat} {o : ExchEnd} : Local b r (s.wakeEnded b act ch began o) := by
  unfold State.wakeEnded
  try dsimp only
  repeat' (first | with_reducible exact h | with_reducible apply Local.setLink | with_reducible apply Local.send | with_reducible apply Local.wakeAgain | with_reducible apply Local.closingStep | split)

theorem setSeen (h : Local b r s)  {act : Activity} {id : Nat} {code : Nat} : Local b r (s.setSeen b act id code) := by
  unfold State.setSeen
  try dsimp only
  repeat' (first | with_reducible exact h | with_reducible apply Local.setBay | with_reducible apply Local.askVet | split)

theorem enterBaseline (h : Local b r s)  : Local b r (s.enterBaseline b) := by
  unfold State.enterBaseline
  try dsimp only
  repeat' (first | with_reducible exact h | with_reducible apply Local.setLampWork | split)

theorem identPassed (h : Local b r s)  {act : Activity} {ch : LinkIx} {total : Nat} : Local b r (s.identPassed b act ch total) := by
  unfold State.identPassed
  try dsimp only
  repeat' (first | with_reducible exact h | with_reducible apply Local.startPages | with_reducible apply Local.send | with_reducible apply Local.enterBaseline | split)

theorem identEnded (h : Local b r s)  {act : Activity} {ch : LinkIx} {o : ExchEnd} : Local b r (s.identEnded b act ch o) := by
  unfold State.identEnded
  try dsimp only
  repeat' (first | with_reducible exact h | with_reducible apply Local.setSeen | with_reducible apply Local.identPassed | with_reducible apply Local.closingStep | split)

theorem pageTest (h : Local b r s)  {ch : LinkIx} {n : Nat} {more : Bool} : Local b r (s.pageTest b ch n more) := by
  unfold State.pageTest
  try dsimp only
  repeat' (first | with_reducible exact h | with_reducible apply Local.setRead | with_reducible apply Local.send | with_reducible apply Local.completeRead | with_reducible apply Local.closingStep | split)

theorem pageEnded (h : Local b r s)  {ch : LinkIx} {n : Nat} {o : ExchEnd} : Local b r (s.pageEnded b ch n o) := by
  unfold State.pageEnded
  try dsimp only
  repeat' (first | with_reducible exact h | with_reducible apply Local.mergePage | with_reducible apply Local.pageTest | with_reducible apply Local.closingStep | split)

theorem eraseEnded (h : Local b r s)  {o : ExchEnd} : Local b r (s.eraseEnded b o) := by
  unfold State.eraseEnded
  try dsimp only
  repeat' (first | with_reducible exact h | with_reducible apply Local.completeRead | with_reducible apply Local.closingStep | split)

theorem enterGroup (h : Local b r s)  {g : Group} : Local b r (s.enterGroup b g) := by
  unfold State.enterGroup
  try dsimp only
  repeat' (first | with_reducible exact h | with_reducible apply Local.setLampWork | with_reducible apply Local.sendFor | split)

theorem judgeCheck (h : Local b r s)  : Local b r (s.judgeCheck b) := by
  unfold State.judgeCheck
  try dsimp only
  repeat' (first | with_reducible exact h | with_reducible apply Local.recordJudgement | with_reducible apply Local.closingStep | split)

theorem groupFrom (h : Local b r s)  {n : Nat} : Local b r (s.groupFrom b n) := by
  unfold State.groupFrom
  try dsimp only
  repeat' (first | with_reducible exact h | with_reducible apply Local.enterGroup | with_reducible apply Local.judgeCheck | split)

theorem lampEnded (h : Local b r s)  {on : Bool} {o : ExchEnd} : Local b r (s.lampEnded b on o) := by
  unfold State.lampEnded
  try dsimp only
  repeat' (first | with_reducible exact h | with_reducible apply Local.setLampWork | with_reducible apply Local.closingStep | split)

theorem afterLoss (h : Local b r s)  : Local b r (s.afterLoss b) := by
  unfold State.afterLoss
  try dsimp only
  repeat' (first | with_reducible exact h | with_reducible apply Local.sendFor | with_reducible apply Local.closingStep | split)

theorem seenOnly (h : Local b r s)  {act : Activity} {o : ExchEnd} : Local b r (s.seenOnly b act o) := by
  unfold State.seenOnly
  try dsimp only
  repeat' (first | with_reducible exact h | with_reducible apply Local.setSeen | split)

theorem lossEnded (h : Local b r s)  {x : Exchange} {o : ExchEnd} : Local b r (s.lossEnded b x o) := by
  unfold State.lossEnded
  try dsimp only
  repeat' (first | with_reducible exact h | with_reducible apply Local.closingStep | with_reducible apply Local.seenOnly | with_reducible apply Local.offEnded | with_reducible apply Local.request | with_reducible apply Local.afterLoss | split)

theorem lampSupplyLoss (h : Local b r s)  : Local b r (s.lampSupplyLoss b) := by
  unfold State.lampSupplyLoss
  try dsimp only
  repeat' (first | with_reducible exact h | with_reducible apply Local.returnComponent | with_reducible apply Local.setLampWork | with_reducible apply Local.afterLoss | split)

theorem orderlyEnded (h : Local b r s)  {act : Activity} {x : Exchange} {o : ExchEnd} : Local b r (s.orderlyEnded b act x o) := by
  unfold State.orderlyEnded
  try dsimp only
  repeat' (first | with_reducible exact h | with_reducible apply Local.request | with_reducible apply Local.orderlyRelease | with_reducible apply Local.seenOnly | with_reducible apply Local.offEnded | with_reducible apply Local.orderlyNext | split)

theorem procedureEnded (h : Local b r s)  {act : Activity} {ch : LinkIx} {x : Exchange} {o : ExchEnd} : Local b r (s.procedureEnded b act ch x o) := by
  unfold State.procedureEnded
  try dsimp only
  repeat' (first | with_reducible exact h | with_reducible apply Local.request | with_reducible apply Local.wakeEnded | with_reducible apply Local.identEnded | with_reducible apply Local.pageEnded | with_reducible apply Local.eraseEnded | with_reducible apply Local.lampEnded | with_reducible apply Local.releaseChannels | split)

theorem pauseOver (h : Local b r s) {ch : LinkIx} : Local b r (s.pauseOver ch) := by
  unfold State.pauseOver
  try dsimp only
  repeat' (first | with_reducible exact h | with_reducible apply Local.setLink | with_reducible apply Local.send | split)

theorem lampClosed (h : Local b r s)  : Local b r (s.lampClosed b) := by
  unfold State.lampClosed
  try dsimp only
  repeat' (first | with_reducible exact h | with_reducible apply Local.setLampWork | with_reducible apply Local.lampToLink | split)

theorem lampLost (h : Local b r s)  : Local b r (s.lampLost b) := by
  unfold State.lampLost
  try dsimp only
  repeat' (first | with_reducible exact h | with_reducible apply Local.endWaiting | with_reducible apply Local.lampSupplyLoss | with_reducible apply Local.returnComponent | with_reducible apply Local.setLampWork | split)

theorem lampGranted (h : Local b r s)  : Local b r (s.lampGranted b) := by
  unfold State.lampGranted
  try dsimp only
  repeat' (first | with_reducible exact h | with_reducible apply Local.claimCtr | with_reducible apply Local.lampClosed | with_reducible apply Local.placeChan | with_reducible apply Local.endWaiting | with_reducible apply Local.returnComponent | split)

theorem lampRefused (h : Local b r s)  : Local b r (s.lampRefused b) := by
  unfold State.lampRefused
  try dsimp only
  repeat' (first | with_reducible exact h | with_reducible apply Local.endWaiting | split)

theorem beginLamp (h : Local b r s)  {origin : Origin} : Local b r (s.beginLamp b origin) := by
  unfold State.beginLamp
  try dsimp only
  repeat' (first | with_reducible exact h | with_reducible apply Local.setLampWork | with_reducible apply Local.setAct | with_reducible apply Local.lampRefused | with_reducible apply Local.request | with_reducible apply Local.lampGranted | split)

theorem beginFault (h : Local b r s)  {v : Variant} {origin : Origin} : Local b r (s.beginFault b v origin) := by
  unfold State.beginFault
  try dsimp only
  repeat' (first | with_reducible exact h | with_reducible apply Local.setAct | with_reducible apply Local.placeChan | split)

theorem baselineOver (h : Local b r s)  : Local b r (s.baselineOver b) := by
  unfold State.baselineOver
  try dsimp only
  repeat' (first | with_reducible exact h | with_reducible apply Local.setLampWork | with_reducible apply Local.closingStep | with_reducible apply Local.groupFrom | split)

theorem onWindowOver (h : Local b r s)  : Local b r (s.onWindowOver b) := by
  unfold State.onWindowOver
  try dsimp only
  repeat' (first | with_reducible exact h | with_reducible apply Local.setLampWork | with_reducible apply Local.sendFor | split)

theorem offWindowOver (h : Local b r s)  : Local b r (s.offWindowOver b) := by
  unfold State.offWindowOver
  try dsimp only
  repeat' (first | with_reducible exact h | with_reducible apply Local.setLampWork | with_reducible apply Local.groupFrom | split)

/-! ### Supply -/

theorem closedNotices (h : Local b r s)  : Local b r (s.closedNotices b) := by
  unfold State.closedNotices
  try dsimp only
  repeat' (first | with_reducible exact h | with_reducible apply Local.enterHeating | with_reducible apply Local.lampClosed | split)

theorem loseClaims (h : Local b r s)  {why : HeatEnd} : Local b r (s.loseClaims b why) := by
  unfold State.loseClaims
  try dsimp only
  repeat' (first | with_reducible exact h | with_reducible apply Local.emptySet | with_reducible apply Local.heatLost | with_reducible apply Local.lampLost | split)

theorem refuseEntry (h : Local b r s)  {p : Purpose} : Local b r (s.refuseEntry b p) := by
  unfold State.refuseEntry
  try dsimp only
  repeat' (first | with_reducible exact h | with_reducible apply Local.withdraw | with_reducible apply Local.heatRefused | with_reducible apply Local.lampRefused | split)

theorem recomputeEffective (h : Local b r s) : Local b r s.recomputeEffective := h.keep rfl rfl rfl rfl rfl rfl rfl rfl rfl rfl rfl rfl

theorem enterStanding (h : Local b r s) : Local b r (s.enterStanding b) := h.setClaim.recomputeEffective

theorem weldNotice (h : Local b r s)  : Local b r (s.weldNotice b) := by
  unfold State.weldNotice
  try dsimp only
  repeat' (first | with_reducible exact h | with_reducible apply Local.askLoad | with_reducible apply Local.enterStanding | with_reducible apply Local.askAdmission | with_reducible apply Local.setClaim | with_reducible apply Local.rebudget | with_reducible apply Local.refuseEntry | split)

theorem shedHeat (h : Local b r s)  {preemption : Bool} : Local b r (s.shedHeat b preemption) := by
  unfold State.shedHeat
  try dsimp only
  repeat' (first | with_reducible exact h | with_reducible apply Local.setClaim | with_reducible apply Local.rebudget | with_reducible apply Local.raise | with_reducible apply Local.placeAdm | with_reducible apply Local.heatShed | with_reducible apply Local.returnStanding | split)

theorem supplyTimedOut (h : Local b r s)  : Local b r (s.supplyTimedOut b) := by
  unfold State.supplyTimedOut
  try dsimp only
  repeat' (first | with_reducible exact h | with_reducible apply Local.withdraw | with_reducible apply Local.raise | with_reducible apply Local.lampRefused | split)

theorem holdExpired (h : Local b r s)  : Local b r (s.holdExpired b) := by
  unfold State.holdExpired
  try dsimp only
  repeat' (first | with_reducible exact h | with_reducible apply Local.askLoad | with_reducible apply Local.setClaim | with_reducible apply Local.askAdmission | split)

/-! ### Clearance -/

theorem waive (h : Local b r s)  {q : ClrRequest} : Local b r (s.waive b q) := by
  unfold State.waive
  try dsimp only
  repeat' (first | with_reducible exact h | with_reducible apply Local.endSession | split)

theorem barBegins (h : Local b r s)  {st : ClrState} : Local b r (s.barBegins b st) := by
  unfold State.barBegins
  try dsimp only
  repeat' (first | with_reducible exact h | with_reducible apply Local.refuseEntry | split)

theorem enterDeparting (h : Local b r s)  : Local b r (s.enterDeparting b) := by
  unfold State.enterDeparting
  try dsimp only
  repeat' (first | with_reducible exact h | with_reducible apply Local.setClearance | with_reducible apply Local.setSignal | with_reducible apply Local.barBegins | split)

theorem showCleared (h : Local b r s)  {resumed : Bool} {seq : Nat} : Local b r (s.showCleared b resumed seq) := by
  unfold State.showCleared
  try dsimp only
  repeat' (first | with_reducible exact h | with_reducible apply Local.setSignal | with_reducible apply Local.raise | with_reducible apply Local.enterDeparting | split)

theorem enterCleared (h : Local b r s)  {q : ClrRequest} : Local b r (s.enterCleared b q) := by
  unfold State.enterCleared
  try dsimp only
  repeat' (first | with_reducible exact h | with_reducible apply Local.setClearance | with_reducible apply Local.relevelChans | with_reducible apply Local.barBegins | with_reducible apply Local.showCleared | split)

theorem placeLamp (h : Local b r s)  : Local b r (s.placeLamp b) := by
  unfold State.placeLamp
  try dsimp only
  repeat' (first | with_reducible exact h | with_reducible apply Local.setClearance | with_reducible apply Local.beginLamp | split)

theorem placeFault (h : Local b r s)  : Local b r (s.placeFault b) := by
  unfold State.placeFault
  try dsimp only
  repeat' (first | with_reducible exact h | with_reducible apply Local.setClearance | with_reducible apply Local.beginFault | split)

theorem enterPreparing (h : Local b r s)  {q : ClrRequest} {failing : Reasons} : Local b r (s.enterPreparing b q failing) := by
  unfold State.enterPreparing
  try dsimp only
  repeat' (first | with_reducible exact h | with_reducible apply Local.setClearance | with_reducible apply Local.barBegins | with_reducible apply Local.relevelChans | with_reducible apply Local.placeLamp | with_reducible apply Local.placeFault | split)

theorem enterSuspended (h : Local b r s)  : Local b r (s.enterSuspended b) := by
  unfold State.enterSuspended
  try dsimp only
  repeat' (first | with_reducible exact h | with_reducible apply Local.setClearance | with_reducible apply Local.setSignal | with_reducible apply Local.barBegins | with_reducible apply Local.raise | split)

theorem resumeCleared (h : Local b r s)  {q : ClrRequest} : Local b r (s.resumeCleared b q) := by
  unfold State.resumeCleared
  try dsimp only
  repeat' (first | with_reducible exact h | with_reducible apply Local.setClearance | with_reducible apply Local.barBegins | with_reducible apply Local.showCleared | split)

theorem revet (h : Local b r s)  : Local b r (s.revet b) := by
  unfold State.revet
  try dsimp only
  repeat' (first | with_reducible exact h | with_reducible apply Local.request | with_reducible apply Local.endClearance | with_reducible apply Local.waive | with_reducible apply Local.enterCleared | with_reducible apply Local.setClearance | with_reducible apply Local.placeLamp | with_reducible apply Local.placeFault | split)

theorem preparationOver (h : Local b r s)  : Local b r (s.preparationOver b) := by
  unfold State.preparationOver
  try dsimp only
  repeat' (first | with_reducible exact h | with_reducible apply Local.request | with_reducible apply Local.endClearance | split)

theorem refuseRequest (h : Local b r s)  {r' : Refused} {seq : Nat} : Local b r (s.refuseRequest b r' seq) := by
  unfold State.refuseRequest
  try dsimp only
  repeat' (first | with_reducible exact h | with_reducible apply Local.raise | split)

theorem takeClear (h : Local b r s)  {q : ClrRequest} : Local b r (s.takeClear b q) := by
  unfold State.takeClear
  try dsimp only
  repeat' (first | with_reducible exact h | with_reducible apply Local.setClearance | with_reducible apply Local.raiseOutcome | with_reducible apply Local.waive | with_reducible apply Local.enterCleared | with_reducible apply Local.enterPreparing | split)

theorem stopClearanceCheck (h : Local b r s)  {act : Activity} : Local b r (s.stopClearanceCheck b act) := by
  unfold State.stopClearanceCheck
  try dsimp only
  repeat' (first | with_reducible exact h | with_reducible apply Local.orderlyStop | split)

theorem cancelClearance (h : Local b r s)  : Local b r (s.cancelClearance b) := by
  unfold State.cancelClearance
  try dsimp only
  repeat' (first | with_reducible exact h | with_reducible apply Local.endClearance | with_reducible apply Local.stopClearanceCheck | split)

theorem takeRequest (h : Local b r s)  {r' : ClearRow} : Local b r (s.takeRequest b r') := by
  unfold State.takeRequest
  try dsimp only
  repeat' (first | with_reducible exact h | with_reducible apply Local.setClearance | with_reducible apply Local.takeClear | with_reducible apply Local.refuseRequest | with_reducible apply Local.cancelClearance | split)

theorem clearancePlugIn (h : Local b r s)  : Local b r (s.clearancePlugIn b) := by
  unfold State.clearancePlugIn
  try dsimp only
  repeat' (first | with_reducible exact h | with_reducible apply Local.endClearance | with_reducible apply Local.askVet | split)

theorem clearanceHold (h : Local b r s)  : Local b r (s.clearanceHold b) := by
  unfold State.clearanceHold
  try dsimp only
  repeat' (first | with_reducible exact h | with_reducible apply Local.enterSuspended | with_reducible apply Local.askVet | split)

theorem clearanceRelease (h : Local b r s)  : Local b r (s.clearanceRelease b) := by
  unfold State.clearanceRelease
  try dsimp only
  repeat' (first | with_reducible exact h | with_reducible apply Local.request | with_reducible apply Local.waive | with_reducible apply Local.resumeCleared | with_reducible apply Local.endClearance | with_reducible apply Local.askVet | split)

theorem clearanceLoopOn (h : Local b r s)  : Local b r (s.clearanceLoopOn b) := by
  unfold State.clearanceLoopOn
  try dsimp only
  repeat' (first | with_reducible exact h | with_reducible apply Local.enterDeparting | with_reducible apply Local.endClearance | with_reducible apply Local.setClearance | split)

theorem clearanceLoopOff (h : Local b r s)  : Local b r (s.clearanceLoopOff b) := by
  unfold State.clearanceLoopOff
  try dsimp only
  repeat' (first | with_reducible exact h | with_reducible apply Local.setClearance | split)

theorem clearanceEmpty (h : Local b r s)  : Local b r (s.clearanceEmpty b) := by
  unfold State.clearanceEmpty
  try dsimp only
  repeat' (first | with_reducible exact h | with_reducible apply Local.endClearance | with_reducible apply Local.raise | split)

theorem clearancePlanChange (h : Local b r s)  : Local b r (s.clearancePlanChange b) := by
  unfold State.clearancePlanChange
  try dsimp only
  repeat' (first | with_reducible exact h | with_reducible apply Local.endClearance | split)

theorem autoLamp (h : Local b r s)  : Local b r (s.autoLamp b) := by
  unfold State.autoLamp
  try dsimp only
  repeat' (first | with_reducible exact h | with_reducible apply Local.setBay | with_reducible apply Local.beginLamp | split)

theorem autoFault (h : Local b r s)  : Local b r (s.autoFault b) := by
  unfold State.autoFault
  try dsimp only
  repeat' (first | with_reducible exact h | with_reducible apply Local.setBay | with_reducible apply Local.beginFault | split)

theorem rosterEvaluation (h : Local b r s)  : Local b r (s.rosterEvaluation b) := by
  unfold State.rosterEvaluation
  try dsimp only
  repeat' (first | with_reducible exact h | with_reducible apply Local.autoLamp | with_reducible apply Local.autoFault | split)

/-! ### BayUnit -/

theorem stopsEmpty (h : Local b r s)  : Local b r (s.stopsEmpty b) := by
  unfold State.stopsEmpty
  try dsimp only
  repeat' (first | with_reducible exact h | with_reducible apply Local.immediateStop | split)

theorem departure (h : Local b r s)  : Local b r (s.departure b) := by
  unfold State.departure
  try dsimp only
  repeat' (first | with_reducible exact h | with_reducible apply Local.setBay | with_reducible apply Local.endSession | with_reducible apply Local.stopsEmpty | with_reducible apply Local.clearanceEmpty | with_reducible apply Local.askVet | split)

theorem plugPulled (h : Local b r s)  : Local b r (s.plugPulled b) := by
  unfold State.plugPulled
  try dsimp only
  repeat' (first | with_reducible exact h | with_reducible apply Local.raise | with_reducible apply Local.emptySet | with_reducible apply Local.driveOpen | split)

theorem unexpected (h : Local b r s)  {closed : Bool} : Local b r (s.unexpected b closed) := by
  unfold State.unexpected
  try dsimp only
  repeat' (first | with_reducible exact h | with_reducible apply Local.raise | split)

theorem weldFound (h : Local b r s)  : Local b r (s.weldFound b) := by
  unfold State.weldFound
  try dsimp only
  repeat' (first | with_reducible exact h | with_reducible apply Local.raise | with_reducible apply Local.moveCtr | with_reducible apply Local.weldNotice | split)

theorem fellOpen (h : Local b r s)  : Local b r (s.fellOpen b) := by
  unfold State.fellOpen
  try dsimp only
  repeat' (first | with_reducible exact h | with_reducible apply Local.moveCtr | with_reducible apply Local.loseClaims | with_reducible apply Local.returnStanding | split)

theorem closeFailed (h : Local b r s)  : Local b r (s.closeFailed b) := by
  unfold State.closeFailed
  try dsimp only
  repeat' (first | with_reducible exact h | with_reducible apply Local.moveCtr | with_reducible apply Local.loseClaims | with_reducible apply Local.raise | with_reducible apply Local.returnStanding | split)

theorem openFailed (h : Local b r s)  : Local b r (s.openFailed b) := by
  unfold State.openFailed
  try dsimp only
  repeat' (first | with_reducible exact h | with_reducible apply Local.moveCtr | with_reducible apply Local.loseClaims | with_reducible apply Local.raise | with_reducible apply Local.weldNotice | split)

theorem maintenanceRelease (h : Local b r s)  : Local b r (s.maintenanceRelease b) := by
  unfold State.maintenanceRelease
  try dsimp only
  repeat' (first | with_reducible exact h | with_reducible apply Local.emptySet | with_reducible apply Local.moveCtr | with_reducible apply Local.returnStanding | with_reducible apply Local.raise | split)

theorem planEndings (h : Local b r s)  : Local b r (s.planEndings b) := by
  unfold State.planEndings
  try dsimp only
  repeat' (first | with_reducible exact h | with_reducible apply Local.endSession | with_reducible apply Local.orderlyStop | with_reducible apply Local.clearancePlanChange | with_reducible apply Local.emptyFaults | with_reducible apply Local.emptyLampResult | split)

theorem newAssignment (h : Local b r s)  {row : PlanRow} : Local b r (s.newAssignment b row) := by
  unfold State.newAssignment
  try dsimp only
  repeat' (first | with_reducible exact h | with_reducible apply Local.planEndings | with_reducible apply Local.setBay | with_reducible apply Local.newSession | with_reducible apply Local.askVet | split)

theorem withdrawal (h : Local b r s)  : Local b r (s.withdrawal b) := by
  unfold State.withdrawal
  try dsimp only
  repeat' (first | with_reducible exact h | with_reducible apply Local.planEndings | with_reducible apply Local.setBay | with_reducible apply Local.askVet | split)

theorem amendment (h : Local b r s)  {old : PlanRow} {row : PlanRow} : Local b r (s.amendment b old row) := by
  unfold State.amendment
  try dsimp only
  repeat' (first | with_reducible exact h | with_reducible apply Local.setBay | with_reducible apply Local.heatAmend | with_reducible apply Local.askVet | split)

end Local
end Sys2Proof.Machine
end

