-- ==== Sys2Proof/Laws/Memory.lean ====
section
/-! SUPPORT. Memory: every write keeps the canonical form, and a byte reads as it was last written. -/

namespace Sys2Proof.Machine

/-! ### Cell lists -/

theorem cellsFrom_mono : ∀ {l : List Host.Cell} {lo lo' : Nat}, lo ≤ lo' → cellsFrom lo' l = true → cellsFrom lo l = true
  | [], _, _, _, _ => rfl
  | (k, v) :: r, lo, lo', h, hw => by
    simp only [cellsFrom, Bool.and_eq_true, decide_eq_true_eq] at hw ⊢
    exact ⟨⟨Nat.le_trans h hw.1.1, hw.1.2⟩, hw.2⟩

/-- A write keeps a cell list canonical. -/
theorem cellWrite_wf : ∀ {l : List Host.Cell} {lo a : Nat} {v : Byte}, lo ≤ a → cellsFrom lo l = true →
    cellsFrom lo (cellWrite l a v) = true
  | [], lo, a, v, h, _ => by
    unfold cellWrite
    split
    · rfl
    · rename_i hv
      simp only [cellsFrom, Bool.and_eq_true, decide_eq_true_eq]
      exact ⟨⟨h, by simpa using hv⟩, trivial⟩
  | (k, x) :: r, lo, a, v, h, hw => by
    have hw' := hw
    simp only [cellsFrom, Bool.and_eq_true, decide_eq_true_eq] at hw
    unfold cellWrite
    split
    · rename_i hak
      split
      · exact hw'
      · rename_i hv
        simp only [cellsFrom, Bool.and_eq_true, decide_eq_true_eq]
        exact ⟨⟨h, by simpa using hv⟩, ⟨by omega, hw.1.2⟩, hw.2⟩
    · split
      · rename_i _ hak
        split
        · exact cellsFrom_mono (by omega) hw.2
        · rename_i hv
          simp only [cellsFrom, Bool.and_eq_true, decide_eq_true_eq]
          exact ⟨⟨h, by simpa using hv⟩, hak ▸ hw.2⟩
      · rename_i h1 h2
        simp only [cellsFrom, Bool.and_eq_true, decide_eq_true_eq]
        exact ⟨hw.1, cellWrite_wf (by omega) hw.2⟩

/-- A write leaves every other address alone. -/
theorem cellRead_cellWrite_ne : ∀ {l : List Host.Cell} {a c : Nat} {v : Byte}, c ≠ a → cellRead (cellWrite l a v) c = cellRead l c
  | [], a, c, v, h => by
    unfold cellWrite
    split
    · rfl
    · simp [cellRead, Ne.symm h]
  | (k, x) :: r, a, c, v, h => by
    unfold cellWrite
    split
    · split
      · rfl
      · simp [cellRead, Ne.symm h]
    · split
      · rename_i _ hak
        subst hak
        split <;> simp [cellRead, Ne.symm h]
      · simp only [cellRead]
        split
        · rfl
        · exact cellRead_cellWrite_ne h

/-- Below the first address of a canonical list everything reads 0. -/
theorem cellRead_below : ∀ {l : List Host.Cell} {lo a : Nat}, a < lo → cellsFrom lo l = true → cellRead l a = 0
  | [], _, _, _, _ => rfl
  | (k, x) :: r, lo, a, h, hw => by
    simp only [cellsFrom, Bool.and_eq_true, decide_eq_true_eq] at hw
    simp only [cellRead]
    rw [if_neg (by omega)]
    exact cellRead_below (lo := k + 1) (by omega) hw.2

/-- The address written reads the value written. -/
theorem cellRead_cellWrite_self : ∀ {l : List Host.Cell} {lo a : Nat} {v : Byte}, cellsFrom lo l = true →
    cellRead (cellWrite l a v) a = v
  | [], lo, a, v, _ => by
    unfold cellWrite
    split
    · rename_i hv; rw [hv]; rfl
    · simp [cellRead]
  | (k, x) :: r, lo, a, v, hw => by
    simp only [cellsFrom, Bool.and_eq_true, decide_eq_true_eq] at hw
    unfold cellWrite
    split
    · rename_i hak
      split
      · rename_i hv
        simp only [cellRead]
        rw [if_neg (by omega), hv]
        exact cellRead_below (lo := k + 1) (by omega) hw.2
      · simp [cellRead]
    · split
      · rename_i _ hak
        split
        · rename_i hv
          rw [hv]
          exact cellRead_below (lo := k + 1) (by omega) hw.2
        · simp [cellRead]
      · rename_i h1 h2
        simp only [cellRead]
        rw [if_neg (by omega)]
        exact cellRead_cellWrite_self hw.2

/-! ### Bytes and words -/

theorem Memory.wf_setByte {m : Memory} (h : m.wf = true) (a : Nat) (v : Byte) (p : Bool) : (m.setByte a v p).wf = true := by
  simp only [Memory.wf, Bool.and_eq_true, Memory.setByte] at h ⊢
  exact ⟨cellWrite_wf (Nat.zero_le _) h.1, cellWrite_wf (Nat.zero_le _) h.2⟩

theorem Memory.wf_setLane {m : Memory} (h : m.wf = true) (w : BitVec 24) (d : Word) (en par : BitVec 4) (i : Nat) :
    (m.setLane w d en par i).wf = true := by
  unfold Memory.setLane
  split
  · exact Memory.wf_setByte h _ _ _
  · exact h

/-- A word write keeps the memory canonical (log 5). -/
theorem Memory.wf_setWord {m : Memory} (h : m.wf = true) (w : BitVec 24) (d : Word) (en par : BitVec 4) :
    (m.setWord w d en par).wf = true :=
  Memory.wf_setLane (Memory.wf_setLane (Memory.wf_setLane (Memory.wf_setLane h _ _ _ _ _) _ _ _ _ _) _ _ _ _ _) _ _ _ _ _

theorem Memory.byte_setLane {m : Memory} (w : BitVec 24) (d : Word) (en par : BitVec 4) (i a : Nat) (ha : a ≠ 4 * w.toNat + i) :
    (m.setLane w d en par i).byte a = m.byte a := by
  unfold Memory.setLane
  split
  · exact cellRead_cellWrite_ne ha
  · rfl

theorem Memory.parityAt_setLane {m : Memory} (w : BitVec 24) (d : Word) (en par : BitVec 4) (i a : Nat) (ha : a ≠ 4 * w.toNat + i) :
    (m.setLane w d en par i).parityAt a = m.parityAt a := by
  unfold Memory.setLane
  split
  · simp only [Memory.parityAt, Memory.setByte]; rw [cellRead_cellWrite_ne ha]
  · rfl

/-- A word write leaves every byte outside its word alone. -/
theorem Memory.byte_setWord_ne {m : Memory} (w : BitVec 24) (d : Word) (en par : BitVec 4) (a : Nat) (ha : a / 4 ≠ w.toNat) :
    (m.setWord w d en par).byte a = m.byte a := by
  unfold Memory.setWord
  rw [Memory.byte_setLane _ _ _ _ _ _ (by omega), Memory.byte_setLane _ _ _ _ _ _ (by omega), Memory.byte_setLane _ _ _ _ _ _ (by omega),
    Memory.byte_setLane _ _ _ _ _ _ (by omega)]

theorem Memory.parityAt_setWord_ne {m : Memory} (w : BitVec 24) (d : Word) (en par : BitVec 4) (a : Nat) (ha : a / 4 ≠ w.toNat) :
    (m.setWord w d en par).parityAt a = m.parityAt a := by
  unfold Memory.setWord
  rw [Memory.parityAt_setLane _ _ _ _ _ _ (by omega), Memory.parityAt_setLane _ _ _ _ _ _ (by omega),
    Memory.parityAt_setLane _ _ _ _ _ _ (by omega), Memory.parityAt_setLane _ _ _ _ _ _ (by omega)]

/-- The byte a lane writes, if it is enabled. -/
theorem Memory.byte_setLane_self {m : Memory} (h : m.wf = true) (w : BitVec 24) (d : Word) (en par : BitVec 4) (i : Nat) :
    (m.setLane w d en par i).byte (4 * w.toNat + i) = if en.getLsbD i then byteOf d i else m.byte (4 * w.toNat + i) := by
  simp only [Memory.wf, Bool.and_eq_true] at h
  unfold Memory.setLane
  split
  · exact cellRead_cellWrite_self h.1
  · rfl

theorem Memory.parityAt_setLane_self {m : Memory} (h : m.wf = true) (w : BitVec 24) (d : Word) (en par : BitVec 4) (i : Nat) :
    (m.setLane w d en par i).parityAt (4 * w.toNat + i) = if en.getLsbD i then par.getLsbD i else m.parityAt (4 * w.toNat + i) := by
  simp only [Memory.wf, Bool.and_eq_true] at h
  unfold Memory.setLane
  split
  · simp only [Memory.parityAt, Memory.setByte]
    rw [cellRead_cellWrite_self h.2]
    cases par.getLsbD i <;> rfl
  · rfl

/-- The bytes of a word after a word write (R2). -/
theorem Memory.byte_setWord {m : Memory} (h : m.wf = true) (w : BitVec 24) (d : Word) (en par : BitVec 4) (i : Nat) (hi : i < 4) :
    (m.setWord w d en par).byte (4 * w.toNat + i) = if en.getLsbD i then byteOf d i else m.byte (4 * w.toNat + i) := by
  have h0 := Memory.wf_setLane h w d en par 0
  have h1 := Memory.wf_setLane h0 w d en par 1
  have h2 := Memory.wf_setLane h1 w d en par 2
  unfold Memory.setWord
  rcases (by omega : i = 0 ∨ i = 1 ∨ i = 2 ∨ i = 3) with rfl | rfl | rfl | rfl
  · rw [byte_setLane _ _ _ _ _ _ (by omega), byte_setLane _ _ _ _ _ _ (by omega), byte_setLane _ _ _ _ _ _ (by omega),
      byte_setLane_self h]
  · rw [byte_setLane _ _ _ _ _ _ (by omega), byte_setLane _ _ _ _ _ _ (by omega), byte_setLane_self h0,
      byte_setLane _ _ _ _ _ _ (by omega)]
  · rw [byte_setLane _ _ _ _ _ _ (by omega), byte_setLane_self h1, byte_setLane _ _ _ _ _ _ (by omega),
      byte_setLane _ _ _ _ _ _ (by omega)]
  · rw [byte_setLane_self h2, byte_setLane _ _ _ _ _ _ (by omega), byte_setLane _ _ _ _ _ _ (by omega),
      byte_setLane _ _ _ _ _ _ (by omega)]

theorem wordOfBytes_byteOf (d : Word) : wordOfBytes (byteOf d 0) (byteOf d 1) (byteOf d 2) (byteOf d 3) = d := by
  apply BitVec.eq_of_toNat_eq
  simp only [wordOfBytes, byteOf, BitVec.toNat_append, BitVec.toNat_ofNat]
  have := d.isLt
  simp only [Nat.shiftRight_eq_div_pow, Nat.mul_zero, Nat.mul_one]
  rw [← Nat.shiftLeft_add_eq_or_of_lt (by omega), ← Nat.shiftLeft_add_eq_or_of_lt (by omega), ← Nat.shiftLeft_add_eq_or_of_lt (by omega)]
  simp only [Nat.shiftLeft_eq]
  omega

/-- A word written with all bytes enabled reads back (R2). -/
theorem Memory.word_setWord {m : Memory} (h : m.wf = true) (w : BitVec 24) (d : Word) (par : BitVec 4) :
    (m.setWord w d 15 par).word w = d := by
  unfold Memory.word
  have e0 := Memory.byte_setWord h w d 15 par 0 (by omega)
  rw [Nat.add_zero] at e0
  rw [e0, Memory.byte_setWord h w d 15 par 1 (by omega), Memory.byte_setWord h w d 15 par 2 (by omega),
    Memory.byte_setWord h w d 15 par 3 (by omega)]
  exact wordOfBytes_byteOf d

/-- Another word is left alone. -/
theorem Memory.word_setWord_ne {m : Memory} (w v : BitVec 24) (d : Word) (en par : BitVec 4) (hv : v ≠ w) :
    (m.setWord w d en par).word v = m.word v := by
  have hn : v.toNat ≠ w.toNat := fun hh => hv (BitVec.eq_of_toNat_eq hh)
  unfold Memory.word
  rw [Memory.byte_setWord_ne _ _ _ _ _ (by omega), Memory.byte_setWord_ne _ _ _ _ _ (by omega), Memory.byte_setWord_ne _ _ _ _ _ (by omega),
    Memory.byte_setWord_ne _ _ _ _ _ (by omega)]

end Sys2Proof.Machine
end

