-- ==== Sys2Proof/Laws/Path.lean ====
section
/-! SUPPORT. The memory path: the geometry of the region, and the relation `Moved r s`, "s comes from r by the Path Unit's handling of a
transaction": queue and table stay within their capacity, and nothing but the path, staging and what is handed on changes. -/

namespace Sys2Proof.Machine

open Sys2Proof.Safety Sys2Proof.Config

/-! ### The region (R4) -/

/-- The word at a byte offset of the region lies in the region, at that offset. -/
theorem region_word (base : BitVec 12) (o : Nat) (ho : o < 16384) :
    inRegion base (wordAddr (regionAddr base o)) = true ∧ offsetOf (wordAddr (regionAddr base o)) = o / 4 * 4 := by
  have hb := base.isLt
  have e : (regionAddr base o).toNat = base.toNat * 16384 + o := by
    unfold regionAddr
    rw [BitVec.toNat_ofNat]
    exact Nat.mod_eq_of_lt (by omega)
  have ew : (wordAddr (regionAddr base o)).toNat = base.toNat * 4096 + o / 4 := by
    unfold wordAddr
    rw [BitVec.extractLsb'_toNat, e, Nat.shiftRight_eq_div_pow]
    omega
  constructor
  · unfold inRegion
    rw [beq_iff_eq]
    apply BitVec.eq_of_toNat_eq
    rw [BitVec.extractLsb'_toNat, ew, Nat.shiftRight_eq_div_pow]
    omega
  · unfold offsetOf
    rw [BitVec.extractLsb'_toNat, ew, Nat.shiftRight_eq_div_pow]
    omega

/-- Words at different words' offsets of the region are different. -/
theorem region_word_inj (base : BitVec 12) {o o' : Nat} (ho : o < 16384) (ho' : o' < 16384)
    (h : wordAddr (regionAddr base o) = wordAddr (regionAddr base o')) : o / 4 = o' / 4 := by
  have h1 := (region_word base o ho).2
  have h2 := (region_word base o' ho').2
  rw [h] at h1
  omega

/-- A write that reaches its area is handled there. -/
theorem writeAt_reaches {s : State} {o : Nat} {w : BusWrite} (ho : o < 16384) (h : Reaches s w) :
    s.writeAt o w = (s.regionWrite (wordAt s o) w).beginTxn := by
  obtain ⟨h1, h2, h3, h4⟩ := h
  have hr := (region_word s.path.base o ho).1
  unfold State.writeAt State.processorWrites
  dsimp only
  rw [if_neg (by simp [h1]), hr, if_neg (by simp), if_neg (by simp [h2]), if_neg (by simpa using h3), if_neg (by simp [h4])]
  rfl

/-- The area of the word at an offset. -/
theorem area_wordAt {s : State} {o : Nat} (ho : o < 16384) : areaOf (offsetOf (wordAt s o)) = areaOf (o / 4 * 4) := by
  rw [wordAt, (region_word s.path.base o ho).2]

/-- A write offered to the Write Queue and the Capture Unit (R7). -/
theorem offerCapture_accepts {s : State} {v : BitVec 24} {w : BusWrite} (h : s.path.queue.length < queueCapacity) :
    s.offerCapture v w = ((s.enqueue v w.data w.enables w.parity).answer .done).capture (areaOf (offsetOf v)) w.data w.enables := by
  unfold State.offerCapture State.freeEntries
  rw [if_pos (by simp; omega)]

/-! ### Moved -/

/-- What the Path Unit's handling of a transaction leaves. -/
structure Still where
  pending : List Instr
  mem : Memory
  sel : Option Posting
  lastRow : Fin 32
  lastStream : Stream
  lines : Bays BayLines
  hold : LineState
  heads : Bays Set8
  producer : BitVec 16
  epoch : BitVec 16
  base : BitVec 12
  reload : Bool
  timeBase : Nat

def State.stays (s : State) : Still :=
  { pending := s.pending, mem := s.mem, sel := s.post.sel, lastRow := s.post.lastRow, lastStream := s.post.lastStream, lines := s.lines,
    hold := s.hold, heads := s.heads, producer := s.ev.producer, epoch := s.ev.epoch, base := s.path.base,
    reload := s.path.reload.isSome, timeBase := s.timeBase }

/-- `s` comes from `r` by the Path Unit's handling of a transaction. -/
structure Moved (r s : State) : Prop where
  stays : s.stays = r.stays
  grown : Grown r.ev s.ev
  capacity : PathCapacity r → PathCapacity s
  budget : BudgetLaw r → BudgetLaw s
  standing : StandingLaw r → StandingLaw s
  signal : SignalLaw r → SignalLaw s
  contactor : ContactorLaw r → ContactorLaw s
  asleep : ReloadQuiet r → ReloadQuiet s
  tables : TablesLaw r → TablesLaw s
  marks : r.path.reload = none → Marks r s

namespace Moved

variable {r s : State}

theorem refl (s : State) : Moved s s := ⟨rfl, Grown.refl _, id, id, id, id, id, id, id, fun _ => .refl s⟩

theorem reload_none (h : Moved r s) (hp : r.path.reload = none) : s.path.reload = none := by
  have e := congrArg Still.reload h.stays
  simpa [State.stays, hp] using e

theorem trans {q : State} (h : Moved q r) (k : Moved r s) : Moved q s :=
  ⟨k.stays.trans h.stays, h.grown.trans k.grown, k.capacity ∘ h.capacity, k.budget ∘ h.budget, k.standing ∘ h.standing,
   k.signal ∘ h.signal, k.contactor ∘ h.contactor, k.asleep ∘ h.asleep, k.tables ∘ h.tables,
   fun hp => (h.marks hp).trans (k.marks (h.reload_none hp))⟩

theorem stays_of_apart {r s : State} (h : s.apart = r.apart) : s.stays = r.stays := by
  simp only [State.apart, Apart.mk.injEq] at h
  simp only [State.stays, Still.mk.injEq]
  simp_all

theorem handed {q : State} (h : Moved q r) (k : Handed r s) : Moved q s := by
  have hp : s.path = r.path := congrArg Apart.path k.apart
  exact h.trans ⟨stays_of_apart k.apart, k.grown, by simp [PathCapacity, hp], k.budget, k.standing, k.signal, k.contactor, k.asleep,
    k.tables, k.marks⟩

theorem inner {q : State} (h : Moved q r) (k : Inner r s) : Moved q s := h.handed ((Handed.refl _).inner k)

/-- The path changes, within the capacities. -/
theorem setPath (h : Moved r s) {p : Path} (hb : p.base = s.path.base) (hr : p.reload.isSome = s.path.reload.isSome)
    (hc : PathCapacity s → p.queue.length ≤ queueCapacity ∧ p.delayed.length ≤ delayedCapacity) : Moved r { s with path := p } := by
  refine h.trans ⟨?_, Grown.refl _, hc, id, id, id, id, ?_, id, fun _ => .silent rfl rfl fun _ => rfl⟩
  · simp [State.stays, hb, hr]
  · intro hl hp b; exact hl (by rw [← hr]; exact hp) b

theorem answer (h : Moved r s) {p : Port} : Moved r (s.answer p) := h.setPath rfl rfl id

theorem raise (h : Moved r s) {k : Kind} {b : Option Bay} {d q : Nat} : Moved r (s.raise k b d q) := h.inner (Inner.refl _).raise

theorem beginTxn (h : Moved r s) : Moved r s.beginTxn := by
  unfold State.beginTxn
  split
  · exact h
  · exact h.setPath rfl rfl id

theorem txnDone (h : Moved r s) {x : Bool} : Moved r (s.txnDone x) := by
  unfold State.txnDone
  exact Moved.beginTxn (h.setPath rfl (by simp) id)

theorem freeEntry (h : Moved r s) {w : BitVec 24} : Moved r (s.freeEntry w) := by
  unfold State.freeEntry
  refine h.setPath rfl rfl fun hc => ⟨hc.1, ?_⟩
  exact Nat.le_trans (List.length_filter_le _ _) hc.2

theorem snapshot (h : Moved r s) {w : BitVec 24} : Moved r (s.snapshot w) := by
  unfold State.snapshot
  split
  · split
    · exact h.setPath rfl rfl id
    · exact h.setPath rfl rfl id
    · exact h
  · exact h

theorem answerRead (h : Moved r s) {w : BitVec 24} {d : Word} {p : BitVec 4} : Moved r (s.answerRead w d p) := h.snapshot.answer

theorem counted (h : Moved r s) {w : BitVec 24} {n : Nat} : Moved r { s with path := s.path.counted w n } :=
  h.setPath rfl rfl fun hc => ⟨hc.1, by simpa [Path.counted] using hc.2⟩

theorem delay (h : Moved r s) {w : BitVec 24} (hd : s.path.delayed.length < delayedCapacity) : Moved r { s with path := s.path.delay w } :=
  h.setPath rfl rfl fun hc => ⟨hc.1, by simp [Path.delay]; omega⟩

theorem memoryRead (h : Moved r s) {w : BitVec 24} : Moved r (s.memoryRead w) := by
  unfold State.memoryRead
  split
  · unfold State.repeatRead
    dsimp only
    split
    · exact h.freeEntry.answerRead
    · split
      · exact h.freeEntry.raise.answer
      · exact h.counted.answer
  · unfold State.freshMemoryRead
    split
    · split
      · rename_i hd; exact (h.delay hd).answer
      · exact h.answer
    · exact h.answer

theorem regionRead (h : Moved r s) {w : BitVec 24} : Moved r (s.regionRead w) := by
  unfold State.regionRead
  split
  · exact h.answer
  · exact h.answer
  all_goals exact h.memoryRead

/-- A Processor Port read (R13). -/
theorem processorReads (h : Moved r s) {a : BitVec 26} : Moved r (s.processorReads a) := by
  unfold State.processorReads
  dsimp only
  split
  · exact h
  · refine Moved.beginTxn ?_
    split
    · exact h.memoryRead
    · split
      · exact h.answer
      · exact h.regionRead

theorem pushed (h : Moved r s) {e : QEntry} (hq : s.path.queue.length < queueCapacity) : Moved r { s with path := s.path.pushed e } :=
  h.setPath rfl rfl fun hc => ⟨by simp [Path.pushed]; omega, hc.2⟩

theorem enqueue (h : Moved r s) {w : BitVec 24} {d : Word} {en p : BitVec 4} (hq : s.path.queue.length < queueCapacity) :
    Moved r (s.enqueue w d en p) :=
  Moved.pushed (s := s.freeEntry w) h.freeEntry (by simpa [State.freeEntry] using hq)

theorem stage (h : Moved r s) {a : Area} {d : Word} {en : BitVec 4} : Moved r (s.stage a d en) := by
  have hc : ∀ c : Capture, Moved r { s with cap := c } := fun c => h.trans ⟨rfl, Grown.refl _, id, id, id, id, id, id, id, fun _ => .silent rfl rfl fun _ => rfl⟩
  unfold State.stage
  dsimp only
  split
  all_goals first | exact hc _ | exact h

theorem capture (h : Moved r s) {a : Area} {d : Word} {en : BitVec 4} : Moved r (s.capture a d en) :=
  h.stage.handed (Handed.refl _).handOn

theorem room {n : Nat} (hf : s.freeEntries (n + 1) = true) : s.path.queue.length < queueCapacity := by
  simp only [State.freeEntries, decide_eq_true_eq] at hf; omega

theorem offer (h : Moved r s) {w : BitVec 24} {bw : BusWrite} : Moved r (s.offer w bw) := by
  unfold State.offer
  split
  · rename_i hf; exact (h.enqueue (room hf)).answer
  · exact h.answer

theorem offerCapture (h : Moved r s) {w : BitVec 24} {bw : BusWrite} : Moved r (s.offerCapture w bw) := by
  unfold State.offerCapture
  split
  · rename_i hf; exact (h.enqueue (room hf)).answer.capture
  · exact h.answer

theorem holdRequest (h : Moved r s) {b : Bay} {bw : BusWrite} : Moved r (s.holdRequest b bw) := by
  unfold State.holdRequest
  refine Moved.answer (h.setPath ?_ ?_ ?_)
  · rfl
  · rfl
  · exact id

theorem emptySlot (h : Moved r s) {b : Bay} : Moved r (s.emptySlot b) := h.setPath rfl rfl id

theorem setClearanceCopies (h : Moved r s) {x : Bays (Option ClearRow)} : Moved r { s with clearanceCopies := x } :=
  h.trans ⟨rfl, Grown.refl _, id, id, id, id, id, id, id, fun _ => .silent rfl rfl fun _ => rfl⟩

theorem pairEnters (h : Moved r s) {b : Bay} {q c : Word} {x : ClearRow} (hq : s.freeEntries 2 = true) (hr : s.path.reload = none) :
    Moved r (s.pairEnters b q c x) := by
  unfold State.pairEnters
  dsimp only
  have h1 := h.enqueue (w := wordAddr (regionAddr s.path.base (requestOffset b))) (d := q) (en := 15) (p := parityOf q) (room hq)
  have h2 : (s.enqueue (wordAddr (regionAddr s.path.base (requestOffset b))) q 15 (parityOf q)).path.queue.length < queueCapacity := by
    simp only [State.freeEntries, decide_eq_true_eq] at hq
    simp only [State.enqueue, Path.pushed, State.freeEntry, List.length_append, List.length_singleton]
    omega
  refine Moved.inner (Moved.setClearanceCopies (h1.enqueue h2).answer.emptySlot) (Inner.takeRequest (Inner.refl _) ?_)
  exact hr

theorem checkWrite (h : Moved r s) {b : Bay} {bw : BusWrite} (hr : s.path.reload = none) : Moved r (s.checkWrite b bw) := by
  unfold State.checkWrite
  dsimp only
  split
  · exact (h.inner (Inner.refl _).rejectRow).answer
  · split
    · exact (h.emptySlot.inner (Inner.refl _).rejectRow).answer
    · split
      · rename_i hq; exact h.pairEnters hq hr
      · exact h.answer

theorem regionWrite (h : Moved r s) {w : BitVec 24} {bw : BusWrite} (hr : s.path.reload = none) : Moved r (s.regionWrite w bw) := by
  have hd : ∀ k, Moved r (s.dropWrite k w) := fun k => h.raise.answer
  unfold State.regionWrite
  split
  all_goals first | exact h.offer | exact h.checkWrite hr | exact hd _ | exact h.offerCapture | skip
  exact h.holdRequest

/-- A Processor Port write (R5 to R11, R20, R21). -/
theorem processorWrites (h : Moved r s) {a : BitVec 26} {bw : BusWrite} : Moved r (s.processorWrites a bw) := by
  unfold State.processorWrites
  dsimp only
  split
  · exact h
  · refine Moved.beginTxn ?_
    split
    · split
      · exact h.answer
      · exact h.offer
    · split
      · exact h.answer
      · rename_i hr
        split
        · exact h.answer
        · split
          · exact h.raise.answer
          · exact h.regionWrite (by simpa using hr)

theorem throughDone (h : Moved r s) : Moved r s.throughDone := by
  unfold State.throughDone
  split
  · split
    · exact h.answerRead.txnDone
    · exact h
  all_goals exact h

theorem fillDone (h : Moved r s) : Moved r s.fillDone := by
  unfold State.fillDone
  split
  · refine Moved.txnDone ?_
    split
    · exact h
    · exact h.setPath rfl rfl fun hc => ⟨hc.1, by simpa [Path.filled] using hc.2⟩
  · exact h

end Moved
end Sys2Proof.Machine
end

