-- ==== Sys2Proof/Laws/PerInstr.lean ====
section
/-! SUPPORT. Statements about every command as syntax, one lemma per constructor. -/

namespace Sys2Proof.Laws.WriteSpelling

open Sys2Proof.Machine Sys2Proof.Safety

/-- No word of the table spells the command (log 35), and it has an address on the Processor Port exactly if it is a write (R1). -/
def Statement (i : Instr) : Prop :=
  (∀ nbits w, decodeTableWord nbits w ≠ some i) ∧ ∀ s : State, (writeOf s i).isSome = isWrite i

theorem powerOn (r : AtReset) : Statement (.powerOn r) := ⟨fun _ _ => nofun, fun _ => rfl⟩
theorem resetLine (r : AtReset) : Statement (.resetLine r) := ⟨fun _ _ => nofun, fun _ => rfl⟩
theorem reloadReadComplete : Statement (.reloadReadComplete) := ⟨fun _ _ => nofun, fun _ => rfl⟩
theorem memoryWrite (addr : BitVec 26) (w : BusWrite) : Statement (.memoryWrite addr w) := ⟨fun _ _ => nofun, fun _ => rfl⟩
theorem postedAreaWrite (addr : BitVec 26) (w : BusWrite) : Statement (.postedAreaWrite addr w) := ⟨fun _ _ => nofun, fun _ => rfl⟩
theorem processorRead (addr : BitVec 26) (burstWords : Nat) : Statement (.processorRead addr burstWords) := ⟨fun _ _ => nofun, fun _ => rfl⟩
theorem throughReadComplete : Statement (.throughReadComplete) := ⟨fun _ _ => nofun, fun _ => rfl⟩
theorem fillReadComplete : Statement (.fillReadComplete) := ⟨fun _ _ => nofun, fun _ => rfl⟩
theorem queueDrainComplete : Statement (.queueDrainComplete) := ⟨fun _ _ => nofun, fun _ => rfl⟩
theorem discardTimerExpiry (word : BitVec 24) : Statement (.discardTimerExpiry word) := ⟨fun _ _ => nofun, fun _ => rfl⟩
theorem snapshotLimitExpiry (b : Bay) : Statement (.snapshotLimitExpiry b) := ⟨fun _ _ => nofun, fun _ => rfl⟩
theorem postingSelect : Statement (.postingSelect) := ⟨fun _ _ => nofun, fun _ => rfl⟩
theorem postingGrant : Statement (.postingGrant) := ⟨fun _ _ => nofun, fun _ => rfl⟩
theorem postingBurstComplete : Statement (.postingBurstComplete) := ⟨fun _ _ => nofun, fun _ => rfl⟩
theorem settingsCommit (w : BusWrite) : Statement (.settingsCommit w) := ⟨fun _ _ => nofun, fun _ => rfl⟩
theorem clockSetCommit (w : BusWrite) : Statement (.clockSetCommit w) := ⟨fun _ _ => nofun, fun _ => rfl⟩
theorem clockTrim (w : BusWrite) : Statement (.clockTrim w) := ⟨fun _ _ => nofun, fun _ => rfl⟩
theorem acknowledgeCommit (w : BusWrite) : Statement (.acknowledgeCommit w) := ⟨fun _ _ => nofun, fun _ => rfl⟩
theorem classCommit (c : ClassIx) (w : BusWrite) : Statement (.classCommit c w) := ⟨fun _ _ => nofun, fun _ => rfl⟩
theorem planCommit (b : Bay) (w : BusWrite) : Statement (.planCommit b w) := ⟨fun _ _ => nofun, fun _ => rfl⟩
theorem lampCheck (b : Bay) (w : BusWrite) : Statement (.lampCheck b w) := ⟨fun _ _ => nofun, fun _ => rfl⟩
theorem faultRead (b : Bay) (w : BusWrite) : Statement (.faultRead b w) := ⟨fun _ _ => nofun, fun _ => rfl⟩
theorem faultReadErase (b : Bay) (w : BusWrite) : Statement (.faultReadErase b w) := ⟨fun _ _ => nofun, fun _ => rfl⟩
theorem cancelHeat (b : Bay) (w : BusWrite) : Statement (.cancelHeat b w) := ⟨fun _ _ => nofun, fun _ => rfl⟩
theorem cancelChecks (b : Bay) (w : BusWrite) : Statement (.cancelChecks b w) := ⟨fun _ _ => nofun, fun _ => rfl⟩
theorem releaseContactor (b : Bay) (w : BusWrite) : Statement (.releaseContactor b w) := ⟨fun _ _ => nofun, fun _ => rfl⟩
theorem orderUnknownKind (b : Bay) (w : BusWrite) : Statement (.orderUnknownKind b w) := ⟨fun _ _ => nofun, fun _ => rfl⟩
theorem progressWrite (w : BusWrite) : Statement (.progressWrite w) := ⟨fun _ _ => nofun, fun _ => rfl⟩
theorem clearanceRequestWrite (b : Bay) (w : BusWrite) : Statement (.clearanceRequestWrite b w) := ⟨fun _ _ => nofun, fun _ => rfl⟩
theorem clearanceClear (b : Bay) (w : BusWrite) : Statement (.clearanceClear b w) := ⟨fun _ _ => nofun, fun _ => rfl⟩
theorem clearanceCancel (b : Bay) (w : BusWrite) : Statement (.clearanceCancel b w) := ⟨fun _ _ => nofun, fun _ => rfl⟩
theorem secondAdvance : Statement (.secondAdvance) := ⟨fun _ _ => nofun, fun _ => rfl⟩
theorem lineLevelChange (line : Line) (level : Bool) : Statement (.lineLevelChange line level) := ⟨fun _ _ => nofun, fun _ => rfl⟩
theorem presenceOccupied (b : Bay) : Statement (.presenceOccupied b) := ⟨fun _ _ => nofun, fun _ => rfl⟩
theorem presenceEmpty (b : Bay) : Statement (.presenceEmpty b) := ⟨fun _ _ => nofun, fun _ => rfl⟩
theorem plugOut (b : Bay) : Statement (.plugOut b) := ⟨fun _ _ => nofun, fun _ => rfl⟩
theorem plugIn (b : Bay) : Statement (.plugIn b) := ⟨fun _ _ => nofun, fun _ => rfl⟩
theorem exitLoopOccupied (b : Bay) : Statement (.exitLoopOccupied b) := ⟨fun _ _ => nofun, fun _ => rfl⟩
theorem exitLoopFree (b : Bay) : Statement (.exitLoopFree b) := ⟨fun _ _ => nofun, fun _ => rfl⟩
theorem yardHoldActive : Statement (.yardHoldActive) := ⟨fun _ _ => nofun, fun _ => rfl⟩
theorem yardHoldInactive : Statement (.yardHoldInactive) := ⟨fun _ _ => nofun, fun _ => rfl⟩
theorem feedbackClosed (b : Bay) : Statement (.feedbackClosed b) := ⟨fun _ _ => nofun, fun _ => rfl⟩
theorem feedbackOpen (b : Bay) : Statement (.feedbackOpen b) := ⟨fun _ _ => nofun, fun _ => rfl⟩
theorem closeLimitExpiry (b : Bay) : Statement (.closeLimitExpiry b) := ⟨fun _ _ => nofun, fun _ => rfl⟩
theorem openLimitExpiry (b : Bay) : Statement (.openLimitExpiry b) := ⟨fun _ _ => nofun, fun _ => rfl⟩
theorem supplyTimeout (b : Bay) : Statement (.supplyTimeout b) := ⟨fun _ _ => nofun, fun _ => rfl⟩
theorem holdTimerExpiry (b : Bay) : Statement (.holdTimerExpiry b) := ⟨fun _ _ => nofun, fun _ => rfl⟩
theorem heatTimeReached (b : Bay) : Statement (.heatTimeReached b) := ⟨fun _ _ => nofun, fun _ => rfl⟩
theorem channelWaitLimitExpiry (b : Bay) (act : Activity) : Statement (.channelWaitLimitExpiry b act) := ⟨fun _ _ => nofun, fun _ => rfl⟩
theorem reservationTimerExpiry : Statement (.reservationTimerExpiry) := ⟨fun _ _ => nofun, fun _ => rfl⟩
theorem requestSent (ch : LinkIx) : Statement (.requestSent ch) := ⟨fun _ _ => nofun, fun _ => rfl⟩
theorem replyTimerExpiry (ch : LinkIx) : Statement (.replyTimerExpiry ch) := ⟨fun _ _ => nofun, fun _ => rfl⟩
theorem busyWaitExpiry (ch : LinkIx) : Statement (.busyWaitExpiry ch) := ⟨fun _ _ => nofun, fun _ => rfl⟩
theorem malformedFrame (ch : LinkIx) (input : List LineByte) : Statement (.malformedFrame ch input) := ⟨fun _ _ => nofun, fun _ => rfl⟩
theorem wakeReply (ch : LinkIx) (frame : List Byte) : Statement (.wakeReply ch frame) := ⟨fun _ _ => nofun, fun _ => rfl⟩
theorem wakePauseEnd (ch : LinkIx) : Statement (.wakePauseEnd ch) := ⟨fun _ _ => nofun, fun _ => rfl⟩
theorem wakeTimerExpiry (ch : LinkIx) : Statement (.wakeTimerExpiry ch) := ⟨fun _ _ => nofun, fun _ => rfl⟩
theorem identReply (ch : LinkIx) (frame : List Byte) : Statement (.identReply ch frame) := ⟨fun _ _ => nofun, fun _ => rfl⟩
theorem faultPageReply (ch : LinkIx) (frame : List Byte) : Statement (.faultPageReply ch frame) := ⟨fun _ _ => nofun, fun _ => rfl⟩
theorem eraseStoredReply (ch : LinkIx) (frame : List Byte) : Statement (.eraseStoredReply ch frame) := ⟨fun _ _ => nofun, fun _ => rfl⟩
theorem lampReply (ch : LinkIx) (frame : List Byte) : Statement (.lampReply ch frame) := ⟨fun _ _ => nofun, fun _ => rfl⟩
theorem sleepReply (ch : LinkIx) (frame : List Byte) : Statement (.sleepReply ch frame) := ⟨fun _ _ => nofun, fun _ => rfl⟩
theorem sensorLevelChange (b : Bay) (sensor : Sensor) (lit : Bool) : Statement (.sensorLevelChange b sensor lit) := ⟨fun _ _ => nofun, fun _ => rfl⟩
theorem sensorChangeTaken (lampCh : LampIx) (sensor : Sensor) : Statement (.sensorChangeTaken lampCh sensor) := ⟨fun _ _ => nofun, fun _ => rfl⟩
theorem baselineExpiry (b : Bay) : Statement (.baselineExpiry b) := ⟨fun _ _ => nofun, fun _ => rfl⟩
theorem onWindowExpiry (b : Bay) : Statement (.onWindowExpiry b) := ⟨fun _ _ => nofun, fun _ => rfl⟩
theorem offWindowExpiry (b : Bay) : Statement (.offWindowExpiry b) := ⟨fun _ _ => nofun, fun _ => rfl⟩
theorem preparationTimerExpiry (b : Bay) : Statement (.preparationTimerExpiry b) := ⟨fun _ _ => nofun, fun _ => rfl⟩
theorem lapseTimerExpiry (b : Bay) : Statement (.lapseTimerExpiry b) := ⟨fun _ _ => nofun, fun _ => rfl⟩
theorem reverseTimerExpiry (b : Bay) : Statement (.reverseTimerExpiry b) := ⟨fun _ _ => nofun, fun _ => rfl⟩
theorem heartbeatTimerExpiry : Statement (.heartbeatTimerExpiry) := ⟨fun _ _ => nofun, fun _ => rfl⟩
theorem accumulatedWholeMinuteChange (b : Bay) : Statement (.accumulatedWholeMinuteChange b) := ⟨fun _ _ => nofun, fun _ => rfl⟩

end Sys2Proof.Laws.WriteSpelling
end

