-- ==== Sys2Proof/Laws/Sessions.lean ====
section
/-! SUPPORT. What becomes of a session: the operations of the contactor and of Admission leave the sessions and all that the tests of a session read,
and a computation of the required time ends as R113 and R115 say (`Safety.Computed`). -/

namespace Sys2Proof.Machine

open Sys2Proof.Config Sys2Proof.Safety

/-- Everything that the tests of a session read is the same in `u` as in `s`, and so are the sessions. -/
structure Steady (s u : State) : Prop where
  sessions : u.sessions = s.sessions
  clock : u.clock = s.clock
  time : u.timeBase = s.timeBase
  settings : u.settings = s.settings
  classes : u.classes = s.classes
  lines : u.lines = s.lines
  plan : ∀ b, (u.bay b).plan = (s.bay b).plan
  assigned : ∀ b, (u.bay b).assignment = (s.bay b).assignment

namespace Steady

variable {r s u : State} {b : Bay}

theorem refl (s : State) : Steady s s := ⟨rfl, rfl, rfl, rfl, rfl, rfl, fun _ => rfl, fun _ => rfl⟩

theorem trans (h : Steady r s) (k : Steady s u) : Steady r u :=
  ⟨k.sessions.trans h.sessions, k.clock.trans h.clock, k.time.trans h.time, k.settings.trans h.settings, k.classes.trans h.classes,
    k.lines.trans h.lines, fun b => (k.plan b).trans (h.plan b), fun b => (k.assigned b).trans (h.assigned b)⟩

/-- An update that leaves these fields and the bays. -/
theorem keep (h : Steady r s) (h1 : u.sessions = s.sessions) (h2 : u.clock = s.clock) (h3 : u.timeBase = s.timeBase) (h4 : u.settings = s.settings)
    (h5 : u.classes = s.classes) (h6 : u.lines = s.lines) (h7 : u.bays = s.bays) : Steady r u :=
  h.trans ⟨h1, h2, h3, h4, h5, h6, fun b => by unfold State.bay; rw [h7], fun b => by unfold State.bay; rw [h7]⟩

theorem raise (h : Steady r s) {k o d n} : Steady r (s.raise k o d n) := h.keep (by simp) (by simp) (by simp) (by simp) (by simp) (by simp) (by simp)
theorem setCtr (h : Steady r s) {x} : Steady r (s.setCtr b x) := h.keep (by simp) (by simp) (by simp) (by simp) (by simp) (by simp) (by simp)
theorem setClaim (h : Steady r s) {x} : Steady r (s.setClaim b x) := h.keep (by simp) (by simp) (by simp) (by simp) (by simp) (by simp) (by simp)
theorem setClearance (h : Steady r s) {x} : Steady r (s.setClearance b x) := h.keep (by simp) (by simp) (by simp) (by simp) (by simp) (by simp) (by simp)
theorem askVetIf (h : Steady r s) {c} : Steady r (s.askVetIf b c) := h.keep (by simp) (by simp) (by simp) (by simp) (by simp) (by simp) (by simp)
theorem askVet (h : Steady r s) : Steady r (s.askVet b) := h.keep rfl rfl rfl rfl rfl rfl rfl

theorem askAdmission (h : Steady r s) : Steady r s.askAdmission := h.keep rfl rfl rfl rfl rfl rfl rfl
theorem askPool (h : Steady r s) : Steady r s.askPool := h.keep rfl rfl rfl rfl rfl rfl rfl
theorem setPoolList (h : Steady r s) {l} : Steady r { s with poolList := l } := h.keep rfl rfl rfl rfl rfl rfl rfl
theorem setEffective (h : Steady r s) {e} : Steady r { s with effective := e } := h.keep rfl rfl rfl rfl rfl rfl rfl
theorem setCounter (h : Steady r s) {n} : Steady r { s with admCounter := n } := h.keep rfl rfl rfl rfl rfl rfl rfl

theorem setSignal (h : Steady r s) {p} : Steady r (s.setSignal b p) := by
  refine h.trans ⟨by simp [State.setSignal], by simp [State.setSignal], by simp [State.setSignal], by simp [State.setSignal],
    by simp [State.setSignal], by simp [State.setSignal], fun c => ?_, fun c => ?_⟩ <;>
  · unfold State.setSignal State.bay
    rw [setBay_bays, vget_vset]
    split
    · next e => rw [e]
    · rfl

theorem testReservation (h : Steady r s) : Steady r s.testReservation := by
  unfold State.testReservation
  split
  · exact h
  · split
    · exact h.keep rfl rfl rfl rfl rfl rfl rfl
    · split <;> exact h.keep rfl rfl rfl rfl rfl rfl rfl

theorem relevelChans (h : Steady r s) {t} : Steady r (s.relevelChans t) := by
  unfold State.relevelChans
  dsimp only
  split
  · exact h
  · exact h.setPoolList.testReservation.askPool

theorem endClearance (h : Steady r s) {o w} : Steady r (s.endClearance b o w) := by
  unfold State.endClearance State.raiseOutcome
  dsimp only
  have h2 : Steady r (if ((s.clearance b).state == .preparing) = true then
      (s.setClearance b ((s.clearance b).endedWith o w s.clockTime)).relevelChans (· == b) else
      s.setClearance b ((s.clearance b).endedWith o w s.clockTime)) := by
    split
    · exact h.setClearance.relevelChans
    · exact h.setClearance
  split <;> exact h2.setSignal.raise

theorem moveCtr (h : Steady r s) {st l} : Steady r (s.moveCtr b st l) := by
  unfold State.moveCtr
  dsimp only
  split
  · exact h.setCtr.askVetIf.endClearance
  · exact h.setCtr.askVetIf

theorem driveClosed (h : Steady r s) : Steady r (s.driveClosed b) := h.moveCtr

theorem rebudget (h : Steady r s) {o} : Steady r (s.rebudget o) := by
  unfold State.rebudget
  dsimp only
  split
  · exact h.setEffective.askAdmission.raise
  · exact h.setEffective.askAdmission

theorem returnStanding (h : Steady r s) : Steady r (s.returnStanding b) := by
  unfold State.returnStanding
  dsimp only
  split
  · exact h.setClaim.rebudget
  · exact h

theorem returnComponent (h : Steady r s) {p} : Steady r (s.returnComponent b p) := by
  unfold State.returnComponent
  split
  · exact h.setClaim.rebudget.returnStanding
  · exact h

theorem openingEnds (h : Steady r s) : Steady r (s.openingEnds b) := by
  unfold State.openingEnds
  dsimp only
  split
  · exact h.moveCtr.returnStanding.driveClosed
  · exact h.moveCtr.returnStanding

theorem driveOpen (h : Steady r s) : Steady r (s.driveOpen b) := by
  unfold State.driveOpen
  dsimp only
  split
  · exact h.moveCtr
  · exact h.moveCtr.openingEnds

theorem releaseCtr (h : Steady r s) {p} : Steady r (s.releaseCtr b p) := by
  unfold State.releaseCtr
  dsimp only
  split
  · split
    · exact h.setCtr
    · split <;> first | exact h.setCtr.driveOpen | exact h.setCtr
  · exact h

theorem withdraw (h : Steady r s) {p} : Steady r (s.withdraw b p) := by
  unfold State.withdraw
  split
  · exact h.keep rfl rfl rfl rfl rfl rfl rfl
  · exact h

theorem placeAdm (h : Steady r s) {p n} : Steady r (s.placeAdm b p n) := h.keep rfl rfl rfl rfl rfl rfl rfl

theorem request (h : Steady r s) {p n} : Steady r (s.request b p n) := by
  unfold State.request
  split
  · exact h
  · split
    · exact h.placeAdm
    · exact h.setCounter.placeAdm

theorem dropSupply (h : Steady r s) : Steady r (s.dropSupply b) := by
  unfold State.dropSupply
  split
  · exact h.releaseCtr.returnComponent
  · exact h.withdraw
  · exact h

/-! What the tests of a session read. -/

theorem session (h : Steady s u) (b : Bay) : u.session b = s.session b := by unfold State.session; rw [h.sessions]
theorem nowMinute (h : Steady s u) : u.nowMinute = s.nowMinute := by unfold State.nowMinute State.clockTime; rw [h.clock]
theorem reached (h : Steady s u) (t : Nat) : u.reached t = s.reached t := by unfold State.reached; rw [h.nowMinute]
theorem occupied (h : Steady s u) (b : Bay) : u.occupied b = s.occupied b := by unfold State.occupied State.line; rw [h.lines]
theorem plugged (h : Steady s u) (b : Bay) : u.plugged b = s.plugged b := by unfold State.plugged State.line; rw [h.lines]
theorem isAssigned (h : Steady s u) (b : Bay) : u.isAssigned b = s.isAssigned b := by unfold State.isAssigned; rw [h.assigned]
theorem heatMinutes (h : Steady s u) (b : Bay) : u.heatMinutes b = s.heatMinutes b := by
  unfold State.heatMinutes State.classOf
  rw [h.plan, h.classes, h.settings]

end Steady

/-! ### The session of a bay after the operations of the Heat Controller -/

variable {s : State} {b : Bay}

theorem session_setSession (x : Session) : (s.setSession b x).session b = x := by unfold State.session; simp

/-- A request for supply changes phase and arrival number at most (R116). -/
theorem session_askSupply : ∃ p n, (s.askSupply b).session b = { s.session b with phase := p, arrival := n } := by
  unfold State.askSupply
  split
  · exact ⟨_, _, session_setSession _⟩
  · exact ⟨_, _, rfl⟩
  · exact ⟨_, _, rfl⟩

/-- What a stop of the count leaves of a session (R119). -/
theorem session_stopCount : ∃ v n, (s.stopCount b).session b = { s.session b with saved := v, since := none, shown := n } := by
  unfold State.stopCount
  dsimp only
  split
  · exact ⟨_, _, session_setSession _⟩
  · next h => exact ⟨(s.session b).saved, (s.session b).shown, by rw [← h]⟩

/-- What completing a session makes of it (R115, R119). -/
theorem session_completeSession (late : Bool) : ∃ v n, (s.completeSession b late).session b =
    { s.session b with state := .complete, phase := .noEntry, late := late, pauseShed := false, pausePlug := false,
                       saved := v, since := none, shown := n } := by
  obtain ⟨v, n, h⟩ := session_stopCount (s := s) (b := b)
  refine ⟨v, n, ?_⟩
  unfold State.completeSession
  dsimp only
  rw [(Steady.refl _).raise.session, session_setSession, (Steady.refl _).dropSupply.session, h]

/-- A session that no start test concerns (R115). -/
theorem startTest_idle (h : (s.session b).state ≠ .booked) : s.startTest b = s := by
  unfold State.startTest
  dsimp only
  rw [if_pos (by simpa using h)]

theorem zeroTest_idle (h : (s.session b).state ≠ .waiting ∨ s.zeroPasses b = false) : s.zeroTest b = s := by
  unfold State.zeroTest
  rw [if_neg]
  rcases h with h | h <;> simp [h]

/-- The record of a session when its times have been computed for `m` heat minutes (R113). -/
def timed (x : Session) (m : Nat) : Session := { x with required := m, start := x.readyBy.map fun t => minusMinutes t m }

/-- Two places of a circle are apart when the way forward from one to the other is not 0. -/
theorem way_ne_zero {M a n : Nat} (hM : 0 < M) (ha : a < M) : (n % M + M - a % M) % M ≠ 0 ↔ n % M ≠ a := by
  have hn := Nat.mod_lt n hM
  rw [Nat.mod_eq_of_lt ha]
  rcases Nat.lt_trichotomy (n % M) a with h | h | h
  · rw [Nat.mod_eq_of_lt (by omega)]
    omega
  · rw [show n % M + M - a = M by omega, Nat.mod_self]
    omega
  · rw [show n % M + M - a = (n % M - a) + M by omega, Nat.add_mod_right, Nat.mod_eq_of_lt (by omega)]
    omega

/-- The current minute lies after a start time (R115). -/
theorem forward_minus (t n m : Nat) : (forward (minusMinutes t m) n != 0) = (n % minuteCounts != minusMinutes t m) := by
  have h : minusMinutes t m < minuteCounts := Nat.mod_lt _ (by decide)
  have := way_ne_zero (n := n) (Nat.lt_of_le_of_lt (Nat.zero_le _) h) h
  rw [Bool.eq_iff_iff, bne_iff_ne, bne_iff_ne]
  exact this

/-- The start time of a session whose times are computed, and whether the current minute lies after it (R113, R115). -/
theorem afterStart_timed {u : State} {x : Session} {m : Nat} (hu : u.session b = timed x m) :
    u.afterStart b = (match x.readyBy.map (fun t => minusMinutes t m), u.nowMinute with
      | some t, some n => n % minuteCounts != t | _, _ => false) := by
  unfold State.afterStart
  rw [hu]
  unfold timed
  cases x.readyBy
  · rfl
  · cases u.nowMinute
    · rfl
    · exact forward_minus _ _ _

/-- A session in BOOKED or WAITING, its times computed, after the tests of R115. -/
theorem computed_tests {u : State} {x : Session} {m : Nat} (hu : u.session b = timed x m) (hx : x.state = .booked ∨ x.state = .waiting)
    (hr : ∀ t, u.reached t = s.reached t) (hn : u.nowMinute = s.nowMinute) (ha : u.isAssigned b = s.isAssigned b)
    (ho : u.occupied b = s.occupied b) (hp : u.plugged b = s.plugged b) :
    Computed s b x m (((u.startTest b).zeroTest b).session b) := by
  have hs : u.startReached b = (x.readyBy.map fun t => minusMinutes t m).any fun t => s.reached t := by
    unfold State.startReached
    rw [hu]
    simp only [timed, hr]
  have hl := afterStart_timed hu
  rw [hn] at hl
  have hc : ∀ {v : State} {late : Bool}, v.session b = u.session b → ∃ k n, (v.completeSession b late).session b =
      { timed x m with state := .complete, phase := .noEntry, late := late, pauseShed := false, pausePlug := false,
                       saved := k, since := none, shown := n } := by
    intro v late hv
    obtain ⟨k, n, e⟩ := session_completeSession (s := v) (b := b) late
    exact ⟨k, n, by rw [e, hv, hu]⟩
  have key : ∀ y, y = ((u.startTest b).zeroTest b).session b → ∀ r, r = u.startReached b →
      y.required = m ∧ y.start = (timed x m).start ∧ y.readyBy = x.readyBy ∧ y.frozen = x.frozen ∧ y.lateReported = x.lateReported ∧
      (m = 0 → r = true → y.state = .complete ∧ y.phase = .noEntry ∧ y.late = u.afterStart b) ∧
      (m = 0 → r = false → y = timed x m) ∧
      (m ≠ 0 → x.state = .booked → r = true → u.isAssigned b = true → u.occupied b = true → u.plugged b = true →
        y.state = .waiting ∧ y.late = u.afterStart b) ∧
      (m ≠ 0 → (x.state = .waiting ∨ r = false ∨ u.isAssigned b = false ∨ u.occupied b = false ∨ u.plugged b = false) → y = timed x m) := by
    rintro y rfl r rfl
    have hst : (timed x m).state = x.state := rfl
    have hrq : (timed x m).required = m := rfl
    have hz : u.zeroPasses b = (m == 0 && u.startReached b) := by unfold State.zeroPasses; rw [hu, hrq]
    by_cases h0 : m = 0
    · subst h0
      cases hre : u.startReached b
      · have h1 : u.startTest b = u := by unfold State.startTest; simp [hu, hrq, hre]
        rw [h1, zeroTest_idle (.inr (by rw [hz, hre]; rfl)), hu]
        simp [timed]
      · rcases hx with hx | hx
        · have h1 : u.startTest b = u.completeSession b (u.afterStart b) := by unfold State.startTest; simp [hu, hst, hrq, hre, hx]
          obtain ⟨k, n, e⟩ := hc (v := u) (late := u.afterStart b) rfl
          rw [h1, zeroTest_idle (.inl (by rw [e]; exact nofun)), e]
          simp [timed, hx]
        · have h1 : u.startTest b = u := startTest_idle (by rw [hu, hst, hx]; exact nofun)
          have h2 : u.zeroTest b = u.completeSession b (u.afterStart b) := by
            unfold State.zeroTest
            rw [hz, hre, hu, hst, hx]
            rfl
          obtain ⟨k, n, e⟩ := hc (v := u) (late := u.afterStart b) rfl
          rw [h1, h2, e]
          simp [timed, hx]
    · have hz' : ∀ v : State, (v.session b).required = m → v.zeroPasses b = false := by
        intro v hv
        unfold State.zeroPasses
        simp [hv, h0]
      by_cases hg : x.state = .booked ∧ u.startReached b = true ∧ u.isAssigned b = true ∧ u.occupied b = true ∧ u.plugged b = true
      · obtain ⟨g1, g2, g3, g4, g5⟩ := hg
        have h1 : u.startTest b = (u.setSession b { timed x m with state := .waiting, late := u.afterStart b }).askSupply b := by
          unfold State.startTest
          simp [hu, hst, hrq, g1, g2, g3, g4, g5, h0]
        obtain ⟨p, n, e⟩ := session_askSupply (s := u.setSession b { timed x m with state := .waiting, late := u.afterStart b }) (b := b)
        rw [session_setSession] at e
        rw [h1, zeroTest_idle (.inr (hz' _ (by rw [e]; rfl))), e]
        simp [timed, h0, g1, g2, g3, g4, g5]
      · have h1 : u.startTest b = u := by
          by_cases hb : x.state = .booked
          · have : (u.startReached b && u.isAssigned b && u.occupied b && u.plugged b) = false := by
              rw [Bool.eq_false_iff]
              intro h
              simp only [Bool.and_eq_true] at h
              exact hg ⟨hb, h.1.1.1, h.1.1.2, h.1.2, h.2⟩
            unfold State.startTest
            simp [hu, hst, hrq, hb, h0, this]
          · exact startTest_idle (by rw [hu, hst]; exact hb)
        rw [h1, zeroTest_idle (.inr (hz' _ (by rw [hu]; rfl))), hu]
        refine ⟨rfl, rfl, rfl, rfl, rfl, fun h => absurd h h0, fun h => absurd h h0, fun _ a1 a2 a3 a4 a5 => absurd ⟨a1, a2, a3, a4, a5⟩ hg, fun _ _ => rfl⟩
  have := key _ rfl _ rfl
  rw [hl, hs, ha, ho, hp] at this
  exact this

/-- A recomputation of an unfrozen session in BOOKED or WAITING (R113). -/
theorem computed_recompute (hf : (s.session b).frozen = false) (hx : (s.session b).state = .booked ∨ (s.session b).state = .waiting) :
    Computed s b (s.session b) (s.heatMinutes b) ((s.recompute b).session b) := by
  have h : s.recompute b = ((s.setSession b (timed (s.session b) (s.heatMinutes b))).startTest b).zeroTest b := by
    unfold State.recompute
    dsimp only
    rw [if_pos (by rcases hx with hx | hx <;> simp [hf, hx])]
    rfl
  rw [h]
  exact computed_tests (session_setSession _) hx (fun t => by simp [State.reached, State.nowMinute, State.clockTime])
    (by simp [State.nowMinute, State.clockTime]) (by simp [State.isAssigned, State.bay]) (by simp [State.occupied, State.line])
    (by simp [State.plugged, State.line])

/-- After the start test of a BOOKED session no session is WAITING without heat to give (R115). -/
theorem zeroTest_startTest {u : State} (h : (u.session b).state = .booked) : (u.startTest b).zeroTest b = u.startTest b := by
  unfold State.startTest
  dsimp only
  rw [if_neg (by simp [h])]
  split
  · split
    · obtain ⟨k, n, e⟩ := session_completeSession (s := u) (b := b) (u.afterStart b)
      exact zeroTest_idle (.inl (by rw [e]; exact nofun))
    · exact zeroTest_idle (.inl (by rw [h]; exact nofun))
  · next h0 =>
    split
    · obtain ⟨p, n, e⟩ := session_askSupply (s := u.setSession b { u.session b with state := .waiting, late := u.afterStart b }) (b := b)
      rw [session_setSession] at e
      refine zeroTest_idle (.inr ?_)
      unfold State.zeroPasses
      rw [e]
      simpa using fun h' => absurd h' (by simpa using h0)
    · exact zeroTest_idle (.inl (by rw [h]; exact nofun))

/-- A session created for a ready-by time (R114). -/
theorem computed_newSession (t : Nat) :
    Computed s b { state := .booked, readyBy := some t } (s.heatMinutes b) ((s.newSession b (some t)).session b) := by
  unfold State.newSession
  dsimp only
  rw [← zeroTest_startTest (by rw [session_setSession]; rfl)]
  exact computed_tests (session_setSession _) (.inl rfl) (fun t => by simp [State.reached, State.nowMinute, State.clockTime])
    (by simp [State.nowMinute, State.clockTime]) (by simp [State.isAssigned, State.bay]) (by simp [State.occupied, State.line])
    (by simp [State.plugged, State.line])

end Sys2Proof.Machine
end

