-- ==== Sys2Proof/Laws/Vetting.lean ====
section
/-! SUPPORT. What a vetting reads, in the spec's terms: freshness (R62), an ACTIVE BLOCKING fault (R164), and the conditions of R185 bit by bit. -/

namespace Sys2Proof.Machine

open Sys2Proof.Config Sys2Proof.Safety

variable {s : State} {b : Bay} {q : ClrRequest}

theorem isFresh_iff (r : Option TimeOfDay) (f : Nat) : s.isFresh r f = true ↔ Fresh s r f := by
  have hm : ∀ n t : Nat, (n % 94371840 + 94371840 - t % 94371840) % 94371840 = (n + 94371840 - t % 94371840) % 94371840 := by
    intro n t; omega
  unfold State.isFresh Fresh State.nowMinute State.clockTime
  cases r with
  | none => simp
  | some t =>
    cases hv : s.clock.valid
    · simp
    · have e := hm (s.clock.day * 1440 + s.clock.sec / 60) (t.day * 1440 + t.sec / 60)
      constructor
      · intro h
        have h' := (Bool.and_eq_true _ _ ▸ h : _ ∧ _)
        have h1 := of_decide_eq_true h'.1
        have h2 := of_decide_eq_true h'.2
        exact ⟨t, rfl, rfl, e ▸ h1, e ▸ h2⟩
      · rintro ⟨t', ht, -, h1, h2⟩
        cases ht
        rw [← e] at h1 h2
        exact (Bool.and_eq_true _ _).mpr ⟨decide_eq_true h1, decide_eq_true h2⟩

theorem mem_occupied (t : FaultTable) (x : Slot) : x ∈ t.occupied ↔ ∃ k, vget t.slots k = some x := by
  unfold FaultTable.occupied
  simp only [List.mem_filterMap, id, Vector.mem_toList_iff, Vector.mem_iff_getElem]
  constructor
  · rintro ⟨o, ⟨i, hi, rfl⟩, h⟩
    exact ⟨⟨i, hi⟩, h⟩
  · rintro ⟨k, h⟩
    exact ⟨_, ⟨k.val, k.isLt, rfl⟩, h⟩

theorem blockingFault_iff : s.blockingFault b = true ↔ HoldsBlocking s b := by
  unfold State.blockingFault FaultTable.worst HoldsBlocking
  have h : ((s.table b).occupied.any fun x => x.active && x.severity == .blocking) = true ↔
      ∃ k x, vget (s.table b).slots k = some x ∧ x.active = true ∧ x.severity = .blocking := by
    simp only [List.any_eq_true, mem_occupied, Bool.and_eq_true, beq_iff_eq]
    constructor
    · rintro ⟨x, ⟨k, hk⟩, hx⟩; exact ⟨k, x, hk, hx⟩
    · rintro ⟨k, x, hk, hx⟩; exact ⟨x, ⟨k, hk⟩, hx⟩
  rw [← h]
  dsimp only
  split
  · next hb => rw [hb]; decide
  · next hb =>
    rw [(Bool.not_eq_true _).mp hb]
    split
    · decide
    · split <;> decide

theorem reasonIf_getLsbD (c : Bool) (r : Reasons) (i : Nat) : (reasonIf c r).getLsbD i = (c && r.getLsbD i) := by
  unfold reasonIf
  cases c <;> simp

/-- The conditions of a vetting in the order of R185, a bit each. -/
def conditions (s : State) (b : Bay) (q : ClrRequest) : List Bool :=
  [!s.isAssigned b, s.isAssigned b && q.run != s.planRun b, !s.occupied b, s.isAssigned b && !s.identityMet b, s.lampFails b, s.faultFails b,
   s.heatFails b q.waiver, s.plugged b, s.contactorFails b, s.hb.state != .live, s.hold.taken]

/-- Each condition of R185 has its own bit of the failing set. -/
theorem failing_getLsbD (i : Nat) (h : i < 15) : (s.failing b q).getLsbD i = (conditions s b q).getD i false := by
  unfold State.failing conditions
  simp only [BitVec.getLsbD_or, reasonIf_getLsbD]
  have hi : i = 0 ∨ i = 1 ∨ i = 2 ∨ i = 3 ∨ i = 4 ∨ i = 5 ∨ i = 6 ∨ i = 7 ∨ i = 8 ∨ i = 9 ∨ i = 10 ∨ i = 11 ∨ i = 12 ∨ i = 13 ∨ i = 14 := by omega
  rcases hi with rfl | rfl | rfl | rfl | rfl | rfl | rfl | rfl | rfl | rfl | rfl | rfl | rfl | rfl | rfl <;>
  simp [rNoPlan, rRunMismatch, rNotPresent, rIdentity, rLamp, rFault, rHeat, rPlug, rContactor, rSilent, rHold]

end Sys2Proof.Machine
end

