-- ==== Sys2Proof/WellFormed.lean ====
section
/-! DEFINITION. Which commands are well-formed: operands a sender can present under the row's own name. -/

namespace Sys2Proof

/-- The kind byte a write offers to an order word (layout in section 12.2), if it enables that byte. -/
def BusWrite.kindByte (w : BusWrite) : Option Nat :=
  if w.enables.getLsbD 1 then some (w.data.toNat / 256 % 256) else none

/-- A write that may spell the order of kind `k` (section 12.2): a disabled kind byte leaves it to staging. -/
def BusWrite.maySpell (w : BusWrite) (k : Nat) : Bool :=
  w.kindByte.all (· == k)

/-- A burst has at most sixteen words (R26). -/
def burstWordsOk (n : Nat) : Bool := n ≤ 16

/-- A reply frame is 6 to 30 bytes and begins with the lead byte (R140). -/
def replyFrameOk (f : List Byte) : Bool :=
  decide (6 ≤ f.length) && decide (f.length ≤ 30) && f.head? == some 0xC3#8

/-- Well-formed commands. The step does not need it: every meaning is total (log 23). -/
def Instr.wellFormed : Instr → Bool
  | .powerOn r => burstWordsOk r.burstWords
  | .resetLine r => burstWordsOk r.burstWords
  | .processorRead _ n => burstWordsOk n
  | .lampCheck _ w => w.maySpell 1
  | .faultRead _ w => w.maySpell 2
  | .faultReadErase _ w => w.maySpell 3
  | .cancelHeat _ w => w.maySpell 4
  | .cancelChecks _ w => w.maySpell 5
  | .releaseContactor _ w => w.maySpell 6
  | .orderUnknownKind _ w => w.kindByte.all fun k => k == 0 || decide (6 < k)
  | .wakeReply _ f => replyFrameOk f
  | .identReply _ f => replyFrameOk f
  | .faultPageReply _ f => replyFrameOk f
  | .eraseStoredReply _ f => replyFrameOk f
  | .lampReply _ f => replyFrameOk f
  | .sleepReply _ f => replyFrameOk f
  | .malformedFrame _ f => decide (0 < f.length)
  | .reloadReadComplete | .memoryWrite _ _ | .postedAreaWrite _ _ | .throughReadComplete | .fillReadComplete
  | .queueDrainComplete | .discardTimerExpiry _ | .snapshotLimitExpiry _ | .postingSelect | .postingGrant
  | .postingBurstComplete | .settingsCommit _ | .clockSetCommit _ | .clockTrim _ | .acknowledgeCommit _
  | .classCommit _ _ | .planCommit _ _ | .progressWrite _ | .clearanceRequestWrite _ _ | .clearanceClear _ _
  | .clearanceCancel _ _ | .secondAdvance | .lineLevelChange _ _ | .presenceOccupied _ | .presenceEmpty _
  | .plugOut _ | .plugIn _ | .exitLoopOccupied _ | .exitLoopFree _ | .yardHoldActive | .yardHoldInactive
  | .feedbackClosed _ | .feedbackOpen _ | .closeLimitExpiry _ | .openLimitExpiry _ | .supplyTimeout _
  | .holdTimerExpiry _ | .heatTimeReached _ | .channelWaitLimitExpiry _ _ | .reservationTimerExpiry
  | .requestSent _ | .replyTimerExpiry _ | .busyWaitExpiry _ | .wakePauseEnd _ | .wakeTimerExpiry _
  | .sensorLevelChange _ _ _ | .sensorChangeTaken _ _ | .baselineExpiry _ | .onWindowExpiry _ | .offWindowExpiry _
  | .preparationTimerExpiry _ | .lapseTimerExpiry _ | .reverseTimerExpiry _ | .heartbeatTimerExpiry
  | .accumulatedWholeMinuteChange _ => true

end Sys2Proof
end

