-- ==== Sys2Proof/Tests/Slice0.lean ====
section
/-! SUPPORT. Tests: well-formedness with an ill-formed term for each check, the spec's worked figures, small checks of single commands, and for
every statement with hypotheses a state and operands that meet them (`test_meets_<statement>`). -/

namespace Sys2Proof.Tests

set_option Elab.async false

open Sys2Proof.Machine Sys2Proof.Config Sys2Proof.Safety

/-! ### Well-formed and ill-formed commands -/

/-- A write of a whole word with good parity. -/
def wr (d : Word) : BusWrite := ⟨d, 15, parityOf d⟩

theorem test_wellFormed_reset : (Instr.powerOn ⟨0, false, 16⟩).wellFormed = true ∧ (Instr.powerOn ⟨0, false, 17⟩).wellFormed = false ∧
    (Instr.resetLine ⟨0, false, 16⟩).wellFormed = true ∧ (Instr.resetLine ⟨0, false, 17⟩).wellFormed = false := by decide
theorem test_wellFormed_read : (Instr.processorRead 0 16).wellFormed = true ∧ (Instr.processorRead 0 17).wellFormed = false := by decide
theorem test_wellFormed_orders : (Instr.lampCheck 0 (wr 0x101)).wellFormed = true ∧ (Instr.lampCheck 0 (wr 0x201)).wellFormed = false ∧
    (Instr.faultRead 0 (wr 0x201)).wellFormed = true ∧ (Instr.faultRead 0 (wr 0x301)).wellFormed = false ∧
    (Instr.faultReadErase 0 (wr 0x301)).wellFormed = true ∧ (Instr.faultReadErase 0 (wr 0x401)).wellFormed = false ∧
    (Instr.cancelHeat 0 (wr 0x401)).wellFormed = true ∧ (Instr.cancelHeat 0 (wr 0x501)).wellFormed = false ∧
    (Instr.cancelChecks 0 (wr 0x501)).wellFormed = true ∧ (Instr.cancelChecks 0 (wr 0x601)).wellFormed = false ∧
    (Instr.releaseContactor 0 (wr 0x601)).wellFormed = true ∧ (Instr.releaseContactor 0 (wr 0x701)).wellFormed = false ∧
    (Instr.orderUnknownKind 0 (wr 0x701)).wellFormed = true ∧ (Instr.orderUnknownKind 0 (wr 0x1)).wellFormed = true ∧
    (Instr.orderUnknownKind 0 (wr 0x601)).wellFormed = false ∧ (Instr.lampCheck 0 ⟨0x901, 13, 0⟩).wellFormed = true := by decide
theorem test_wellFormed_frames : let good := replyFrame .wake 0 [0]; let bad := 0x00#8 :: good.tail; let long := good ++ List.replicate 25 0#8
    (Instr.wakeReply 0 good).wellFormed = true ∧ (Instr.wakeReply 0 bad).wellFormed = false ∧ (Instr.wakeReply 0 long).wellFormed = false ∧
    (Instr.identReply 0 good).wellFormed = true ∧ (Instr.identReply 0 bad).wellFormed = false ∧
    (Instr.faultPageReply 0 good).wellFormed = true ∧ (Instr.faultPageReply 0 bad).wellFormed = false ∧
    (Instr.eraseStoredReply 0 good).wellFormed = true ∧ (Instr.eraseStoredReply 0 bad).wellFormed = false ∧
    (Instr.lampReply 0 good).wellFormed = true ∧ (Instr.lampReply 0 (good.take 5)).wellFormed = false ∧
    (Instr.sleepReply 0 good).wellFormed = true ∧ (Instr.sleepReply 0 bad).wellFormed = false ∧
    (Instr.malformedFrame 0 (onLine bad)).wellFormed = true ∧ (Instr.malformedFrame 0 []).wellFormed = false := by decide +kernel

/-! ### Figures the spec works out -/

/-- The CRC of the bytes 0x31 to 0x39 is 0x29B1 (R140). -/
theorem test_crc : crc16 [0x31, 0x32, 0x33, 0x34, 0x35, 0x36, 0x37, 0x38, 0x39] = 0x29B1 := by decide +kernel

/-- Data halves that sum to 0x3C51 take the check word 0x6A20598F under the plan tag (Forming a check word). -/
theorem test_checkWord : tagAndSum tagPlan [0x3C51, 0, 0, 0, 0, 0, 0, 0x6A20598F] = true ∧
    tagAndSum tagPlan [0x3C51, 0, 0, 0, 0, 0, 0, 0x6A20598E] = false ∧ tagAndSum tagClass [0x3C51, 0, 0, 0, 0, 0, 0, 0x6A20598F] = false := by
  decide +kernel

/-- A byte and its parity bit together hold an even number of ones (R2). -/
theorem test_parity : parityOf 0x01030700#32 = 10 ∧ parityError ⟨0x01030700, 15, 10⟩ = false ∧ parityError ⟨0x01030700, 15, 2⟩ = true ∧
    parityError ⟨0x01030700, 7, 2⟩ = false := by decide +kernel

/-- Bay 7's plan row of the worked example of chapter 2: class 3, coach 204118, run 812, roster day 311 minute 375, ready-by minute 345. -/
def planImage : Vector Word 8 := #v[0x303, 0x32C31D56, 0x81770137, 0x81590137, 0, 0, 0, 0x6A203D86]

/-- A class row: code 7, standing 10, heat 16, lamp 40; groups 0, 1 and 7 present, 0 and 7 critical, 1 flashing. -/
def classImage : Vector Word 8 := #v[0x28100A07, 0x0F1E2D3C, 0x81831403, 0x2, 0x201, 0x80000000, 0, 0x6A100FF6]

/-- A settings record with a target of 700. -/
def settingsImage : Vector Word 16 :=
  #v[0x102BC, 0x78782D3C, 0x0A0A0A0A, 0x400404, 0x1240000, 0, 0, 0, 0, 0, 0, 0, 0, 0, 0, 0x6A01D412]

/-- The class of the examples. -/
def cls : ClassRow := (decodeClass classImage).getD ⟨0, 0, 0, 0, Vector.replicate 4 0, 0, 0, 0, 0, 0, Vector.replicate 8 0⟩

/-- The plan row of the examples. -/
def plan7 : PlanRow :=
  { enabled := true, autoChecks := true, classIx := 3, coachId := 204118, run := 812, roster := some 448215, readyBy := some 448185 }

/-- The power-on state with class 3 committed. -/
def z : State := { classes := vset (Vector.replicate 32 none) 3 (some cls) }

theorem test_class_row : decodeClass classImage = some ⟨7, 10, 16, 40, #v[60, 45, 30, 15], 3, 20, 0x83, 0x81, 0x02,
    #v[1, 2, 0, 0, 0, 0, 0, 0x80]⟩ ∧ decodeClass (vset classImage 4 0x0201) = some cls ∧ decodeClass (vset classImage 4 0x0200) = none := by decide +kernel
theorem test_plan_row : decodePlan z.classes planImage = some plan7 ∧ decodePlan (Vector.replicate 32 none) planImage = none := by decide +kernel
theorem test_settings_row : decodeSettings settingsImage = some { target := 700, band := 1 } ∧
    decodeSettings (vset settingsImage 5 1) = none := by decide +kernel

/-- The area map of R4 at the first and last word of its areas. -/
theorem test_areas : areaOf 0 = .settings 0 ∧ areaOf 0x3C = .settings 15 ∧ areaOf 0x40 = .clockSet 0 ∧ areaOf 0x48 = .clockSet 2 ∧
    areaOf 0x4C = .trim ∧ areaOf 0x50 = .progress ∧ areaOf 0x54 = .ack 0 ∧ areaOf 0x5C = .ack 2 ∧ areaOf 0x60 = .pass ∧
    areaOf 0x80 = .clockRow 0 ∧ areaOf 0x8C = .clockRow 3 ∧ areaOf 0x90 = .ringHeader 0 ∧ areaOf 0xAC = .ringHeader 7 ∧ areaOf 0xB0 = .pass ∧
    areaOf 0x200 = .classRow 0 0 ∧ areaOf 0x5FC = .classRow 31 7 ∧ areaOf 0x600 = .planRow 0 0 ∧ areaOf 0x7FC = .planRow 15 7 ∧
    areaOf 0x800 = .order 0 ∧ areaOf 0x83C = .order 15 ∧ areaOf 0x840 = .pass ∧ areaOf 0x880 = .request 0 ∧ areaOf 0x884 = .check 0 ∧
    areaOf 0x8FC = .check 15 ∧ areaOf 0x900 = .pass ∧ areaOf 0x1000 = .statusRow 0 0 ∧ areaOf 0x13FC = .statusRow 15 15 ∧
    areaOf 0x1400 = .faultBlock 0 0 ∧ areaOf 0x17FC = .faultBlock 15 15 ∧ areaOf 0x1800 = .pass ∧ areaOf 0x2000 = .ring ∧
    areaOf 0x2FFC = .ring ∧ areaOf 0x3000 = .pass := by decide +kernel

/-! ### Single commands -/

/-- A state with changes, for the power-on reset and for frames to be told from it. -/
def used : State := { z with timeBase := 77, clock := ⟨true, 311, 20000, 70⟩, ev := { stamp := 5, epoch := 3 } }

/-- The next state of a command. -/
def nextOf (c : Instr) (s : State) : State :=
  match exec c s with
  | .next t => t
  | .fault _ | .refused _ => s

theorem test_step_from_reset : step State.reset = .next { State.reset with timeBase := 1 } := rfl
theorem test_powerOn : nextOf (.powerOn ⟨0x123, false, 0⟩) used = { State.reset with path := { base := 0x123 } } := by decide +kernel
theorem test_resetLine : (nextOf (.resetLine ⟨0, false, 0⟩) used).ev = { epoch := 4 } ∧
    (nextOf (.resetLine ⟨0, false, 0⟩) used).clock = used.clock := by decide +kernel
theorem test_settingsCommit : let s := { z with cap := { z.cap with settings := vset settingsImage 15 0 } }
    (nextOf (.settingsCommit (wr 0x6A01D412)) s).settings.target = 700 ∧ (nextOf (.settingsCommit (wr 0x6A01D412)) s).effective = 700 ∧
    (nextOf (.settingsCommit (wr 0x6A01D413)) s).ev.buffer.map (fun e => (e.kind, e.detail)) = [(.rowRejected, 0x3C)] := by decide +kernel
theorem test_classCommit : let s : State := { cap := { classes := vset (Vector.replicate 32 (Vector.replicate 8 0)) 3 (vset classImage 7 0) } }
    vget (nextOf (.classCommit 3 (wr 0x6A100FF6)) s).classes 3 = some cls := by decide +kernel
theorem test_drain : let s := { z with path := { z.path with queue := [⟨0x123456, 0xA1B2C3D4, 5, 1⟩] } }
    (nextOf .queueDrainComplete s).mem = ⟨[(0x48D158, 0xD4), (0x48D15A, 0xB2)], [(0x48D158, 1)]⟩ := by decide +kernel
theorem test_retry_when_full : (nextOf (.memoryWrite 4 (wr 1))
    { z with path := { z.path with base := 1, queue := List.replicate 8 ⟨0, 0, 15, 0⟩ } }).path.port = .retry := by decide +kernel

/-! ### States and operands that meet the hypotheses of the statements -/

/-- A queue entry, an event record and a fault record. -/
def entry : QEntry := ⟨5, 1, 15, parityOf 1⟩
def event : EventRec := ⟨1, .holdOn, none, 0, none, 0⟩
def record : FaultRecord := ⟨0x1234, .blocking, true, 1⟩

/-- A full path under a burst of an event, and full buffers. -/
def busy : State := { z with
  path := { z.path with base := 1, queue := List.replicate 8 entry, delayed := List.replicate 4 ⟨9, .pending, 0⟩ },
  post := { z.post with sel := some ⟨.event, some ⟨event.words, 4⟩⟩ },
  ev := { stamp := 16, buffer := List.replicate 16 event } }

theorem test_meets_StepRunsFrontCommand : ({ z with pending := [.secondAdvance] } : State).pending = .secondAdvance :: [] ∧ z.pending = [] :=
  ⟨rfl, rfl⟩
theorem test_meets_EveryCommandAnswersNext : z.agenda = {} := rfl
theorem test_meets_StepKeepsPathLaws : MemoryCanonical busy ∧ PathCapacity busy ∧ BurstWhole busy ∧ PostedEventHeld busy ∧
    ∃ t, step busy = .next t :=
  ⟨by unfold MemoryCanonical; decide +kernel, by unfold PathCapacity; decide +kernel, by intro tg bu h; cases h; decide +kernel,
    by intro p h; cases h; decide +kernel, _, rfl⟩

/-- A READY entry of word 9, a fill of word 8 and a through read of word 7, with a write of word 5 queued. -/
def fresh : State := { z with path := { z.path with
  delayed := [⟨9, .ready 0 0 500, 0⟩], queue := [entry], begun := some (.fill 8 false), port := .waiting 7 } }

theorem test_meets_StepKeepsPathLaws_fresh : MemoryCanonical fresh ∧ FreshLaw fresh ∧ ∃ t, step fresh = .next t := by
  refine ⟨by unfold MemoryCanonical; decide +kernel, ⟨fun e he => ?_, fun v h => ?_, fun v h => ?_⟩, _, rfl⟩
  · cases List.mem_singleton.mp he
    intro d p due h
    cases h
    decide +kernel
  · cases h; decide +kernel
  · cases h; decide +kernel
theorem test_meets_StepKeepsEventBalance : BufferCapacity busy ∧ PostedEventHeld busy ∧ StampsBalance busy ∧ ∃ t, step busy = .next t :=
  ⟨by unfold BufferCapacity; decide +kernel, by intro p h; cases h; decide +kernel, by unfold StampsBalance; decide +kernel, _, rfl⟩

/-- Bay 7 claims 26 A under a target of 20 and holds STANDING and HEAT. -/
def claiming : State := { z with
  effective := 26, settings := { target := 20 }, claims := vset z.claims 7 { standing := some 10, heat := some ⟨16, false, 0, none, true⟩ } }

theorem test_meets_StepKeepsAdmissionAndTables : BudgetLaw claiming ∧ StandingLaw claiming ∧ ∃ t, step claiming = .next t :=
  ⟨by unfold BudgetLaw; decide +kernel, by unfold StandingLaw; decide +kernel, _, rfl⟩

/-- A clearance of bay 7 in a state, with a request. -/
def clrIn (st : ClrState) : State := { z with
  clr := vset z.clr 7 { state := st, request := some ⟨false, 812, 5⟩, lastSeq := some 5, lapse := .running 900, prep := some 800, reverse := some 700 },
  bays := vset z.bays 7 { assignment := .assigned, plan := some plan7, proceed := st == .cleared } }

theorem test_meets_StepKeepsClearanceLaws : SignalLaw (clrIn .cleared) ∧ ContactorLaw (clrIn .cleared) ∧ ReloadQuiet (clrIn .cleared) ∧
    ReloadQuiet { z with path := { z.path with reload := some {} } } ∧ ∃ t, step (clrIn .cleared) = .next t :=
  ⟨by unfold SignalLaw; decide +kernel, by unfold ContactorLaw; decide +kernel, by unfold ReloadQuiet; decide +kernel,
    by unfold ReloadQuiet; decide +kernel, _, rfl⟩

/-- Bay 7 heats: HEATING with the supply GRANTED, the contactor CLOSED for it with closed feedback, the pilot ON. -/
def heated : State := { z with
  bays := vset z.bays 7 { assignment := .assigned, plan := some plan7 },
  lines := vset z.lines 7 { presence := ⟨true, true, none⟩, plug := ⟨true, true, none⟩, feedback := ⟨true, true, none⟩ },
  sessions := vset z.sessions 7 { state := .heating, required := 30, readyBy := some 448185, phase := .granted, since := some 5, frozen := true },
  ctrs := vset z.ctrs 7 { state := .closed, heat := true, pilot := true },
  claims := vset z.claims 7 { standing := some 10, heat := some ⟨16, false, 0, none, true⟩ } }

theorem test_heated : ∀ b : Bay, (((heated.ctr b).pilot = true → (heated.session b).state = .heating ∧ (heated.ctr b).heat = true ∧
    (heated.ctr b).state = .closed) ∧ ((heated.session b).state = .heating → (heated.session b).phase = .granted)) ∧
    ((heated.session b).state.live = true → b = 7) := by decide +kernel
theorem test_meets_StepKeepsHeatAndBarLaws : HeatLaw heated ∧ (heated.ctr 7).pilot = true ∧ FeedbackLaw heated ∧ BarLaw heated ∧
    ContactorLaw heated ∧ ReloadQuiet heated ∧ (∃ t, step heated = .next t) ∧ FeedbackLaw (clrIn .cleared) ∧ BarLaw (clrIn .cleared) ∧
    ((clrIn .cleared).clearance 7).state.needsOpen = true ∧ (∀ b, ((clrIn .cleared).ctr b).pilot = false ∧ ((clrIn .cleared).session b).state = .none) ∧
    (∀ st ∈ [ClrState.cleared, .suspended, .departing], BarLaw { clrIn st with pending := [.secondAdvance] } ∧
      ((clrIn st).clearance 7).state = st ∧ ∃ t, step { clrIn st with pending := [.secondAdvance] } = .next t) := by
  refine ⟨fun b => ⟨(test_heated b).1.1, (test_heated b).1.2, fun h => ?_⟩, rfl, ?_, ?_, ?_, ?_, ⟨_, rfl⟩, ?_, ?_, rfl, ?_, ?_⟩
  · rw [(test_heated b).2 h]; exact ⟨plan7, 448185, rfl, rfl⟩
  · unfold FeedbackLaw; decide +kernel
  · unfold BarLaw; decide +kernel
  · unfold ContactorLaw; decide +kernel
  · unfold ReloadQuiet; decide +kernel
  · unfold FeedbackLaw; decide +kernel
  · unfold BarLaw; decide +kernel
  · decide +kernel
  · intro st h
    simp only [List.mem_cons, List.not_mem_nil, or_false] at h
    rcases h with h | h | h <;> subst h <;> exact ⟨by unfold BarLaw; decide +kernel, rfl, _, rfl⟩

/-- A table with one slot. -/
def table1 : FaultTable := { slots := vset (Vector.replicate 8 none) 7 (some ⟨0x99, .blocking, true, 1, none, true⟩) }

theorem test_tables : (∀ i : Fin 8, i = 7 ∨ vget table1.slots i = none) ∧ ∀ (b : Bay) (i : Fin 8), vget (z.table b).slots i = none := by
  decide +kernel
theorem test_meets_StepKeepsAdmissionAndTables_tables : TablesLaw z ∧ TableDistinct table1 ∧ ∃ t, step z = .next t := by
  refine ⟨?_, ?_, _, rfl⟩
  · intro b i j x y h
    rw [test_tables.2] at h
    exact nomatch h
  · intro i j x y hx hy _
    rcases test_tables.1 i with h | h <;> rcases test_tables.1 j with k | k
    · rw [h, k]
    · rw [k] at hy; exact nomatch hy
    · rw [h] at hx; exact nomatch hx
    · rw [h] at hx; exact nomatch hx

theorem test_meets_FrameMemoryAndRecords : reachesMemory .secondAdvance = false ∧ isWrite .secondAdvance = false ∧
    isReset .secondAdvance = false ∧ ∃ t, exec .secondAdvance z = .next t := ⟨rfl, rfl, rfl, _, rfl⟩
theorem test_meets_FramePath : isPath .secondAdvance = false ∧ isReset .secondAdvance = false ∧ isWrite .secondAdvance = false ∧
    ∃ t, exec .secondAdvance z = .next t := ⟨rfl, rfl, rfl, _, rfl⟩
theorem test_meets_FrameTimeAndLines : isReset .postingSelect = false ∧ isLine .postingSelect = false ∧ isWrite .postingSelect = false ∧
    (∀ b k l, Instr.postingSelect ≠ .sensorLevelChange b k l) ∧ (∀ r, Instr.postingSelect ≠ .powerOn r) ∧ ∃ t, exec .postingSelect z = .next t :=
  ⟨rfl, rfl, rfl, nofun, nofun, _, rfl⟩
theorem test_meets_FrameOtherBays : bayOf z (.plugOut 7) = some 7 ∧ (6 : Bay) ≠ 7 := by decide

/-! #### Writes and reads -/

/-- The region at 0x4000, the queue with room for one entry. -/
def room : State := { z with path := { z.path with base := 1, queue := List.replicate 7 entry } }
/-- The queue full. -/
def fullq : State := { z with path := { z.path with base := 1, queue := List.replicate 8 entry } }

theorem test_meets_WriteQueued : writeOf room (.memoryWrite 0x4060 (wr 1)) = some (0x4060, wr 1) ∧ room.path.port.busy = false ∧
    (wr 1).enables ≠ 0 ∧ room.path.queue.length < queueCapacity ∧ inRegion room.path.base (wordAddr 0x4060) = true ∧ room.path.reload = none ∧
    parityError (wr 1) = false ∧ areaAt (wordAddr 0x4060) = .pass ∧ inRegion room.path.base (wordAddr 0x3FFC) = false ∧
    inRegion room.path.base (wordAddr 0x7FFC) = true ∧ inRegion room.path.base (wordAddr 0x8000) = false := by decide +kernel
theorem test_meets_WriteRetried : ({ z with path := { z.path with port := .waiting 1 } } : State).path.port.busy = true ∧
    fullq.path.port.busy = false ∧ fullq.path.queue.length = queueCapacity ∧ (wr 1).enables ≠ 0 ∧ inRegion fullq.path.base (wordAddr 0x4000) = true ∧
    parityError (wr 1) = false ∧ isCapture (areaAt (wordAddr 0x4000)) = true ∧
    inRegion fullq.path.base (wordAddr 0) = false ∧ (BusWrite.mk 1 0 0).enables = 0 ∧ fullq.path.reload = none ∧
    ({ z with path := { z.path with reload := some {} } } : State).path.reload.isSome = true := by decide +kernel
theorem test_meets_WriteDropped : room.path.port.busy = false ∧ room.path.reload = none ∧ inRegion room.path.base (wordAddr 0x5000) = true ∧
    parityError ⟨1, 1, 0⟩ = true ∧ isServedOrPosted (areaAt (wordAddr 0x5000)) = true ∧ isServedOrPosted (areaAt (wordAddr 0x4080)) = true := by
  decide +kernel
theorem test_meets_CaptureAndOrders : Accepts room (wr 1) ∧ inRegion room.path.base (wordAddr 0x4000) = true ∧
    isCapture (areaAt (wordAddr 0x4000)) = true ∧ areaAt (wordAddr 0x4000) = .settings 0 ∧ handsOn (.settings 0) = false ∧
    isCapture (areaAt (wordAddr 0x403C)) = true ∧ handsOn (areaAt (wordAddr 0x403C)) = true ∧ Accepts z (wr 0x105) ∧
    vget z.orderSeqs 7 ≠ some (bits (orderWord z 7 (wr 0x105)) 0 8) ∧ orderKind (orderWord z 7 (wr 0x105)) = .lampCheck ∧ z.isAssigned 7 = false ∧
    orderKind (orderWord z 7 (wr 0x705)) = .unknown ∧ orderKind (orderWord z 7 (wr 0x605)) = .releaseContactor ∧ (z.ctr 7).state ≠ .welded ∧
    (let s : State := { z with orderSeqs := vset z.orderSeqs 7 (some 5) }
     Accepts s (wr 0x705) ∧ vget s.orderSeqs 7 = some (bits (orderWord s 7 (wr 0x705)) 0 8)) ∧
    (let s : State := { z with path := { z.path with held := vset z.path.held 7 (some 0x32C0105) }, clr := vset z.clr 7 { lastSeq := some 5 } }
     Reaches s (wr 0x6A30919F) ∧ s.path.queue.length + 2 ≤ queueCapacity ∧
     decodeClearance 0x32C0105 (mergeWord 0 0x6A30919F 15) = some ⟨5, .clear, false, 812⟩ ∧ (s.clearance 7).lastSeq = some 5) := by
  unfold Accepts Reaches; decide +kernel
theorem test_meets_ReadFresh : z.path.port.busy = false ∧ (z.burstTo 0).delayedEntry (wordAddr 8) = none ∧ (z.burstTo 0).queued (wordAddr 8) = false ∧
    (z.burstTo 0).engineHolds = false ∧ (z.burstTo 0).inPosting (wordAddr 8) = false ∧ inRegion (z.burstTo 0).path.base (wordAddr 0x4000) = false ∧
    inRegion (z.burstTo 0).path.base (wordAddr 0x60) = true ∧ isServed (areaAt (wordAddr 0x60)) = false ∧
    (room.burstTo 0).queued 5 = true ∧ (room.burstTo 0).delayedEntry 5 = none ∧ (busy.burstTo 4).engineHolds = true := by decide +kernel

/-- A delayed read of word 9 with a count. -/
def delayed (st : DState) (count : Nat) : State := { z with path := { z.path with delayed := [⟨9, st, count⟩] } }

theorem test_meets_ReadRepeated : ((delayed .pending 63).burstTo 0).delayedEntry (wordAddr 36) = some ⟨9, .pending, 63⟩ ∧
    ((delayed (.ready 1 0 500) 0).burstTo 0).delayedEntry (wordAddr 36) = some ⟨9, .ready 1 0 500, 0⟩ ∧ isServed (areaAt (wordAddr 36)) = false ∧
    62 + 1 < z.settings.retry ∧ z.settings.retry ≤ 63 + 1 := by decide +kernel
theorem test_meets_ServedRead : inRegion z.path.base (wordAddr 0x80) = true ∧ isServed (areaAt (wordAddr 0x80)) = true ∧
    areaAt (wordAddr 0x80) = .clockRow 0 ∧ areaAt (wordAddr 0x8C) = .clockRow 3 ∧ areaAt (wordAddr 0x90) = .ringHeader 0 ∧
    areaAt (wordAddr 0xAC) = .ringHeader 7 ∧ ({ z with path := { z.path with reload := some {} } } : State).path.reload.isSome = true := by decide +kernel
theorem test_meets_PortReadsAndTimers : let s := { z with path := { z.path with port := .waiting 9 } }
    s.path.port = .waiting 9 ∧ s.completing .through = true ∧ (delayed .pending 0).fillInHand = some (9, false) ∧
    ({ z with path := { z.path with begun := some (.fill 9 true) } } : State).fillInHand = some (9, true) := by decide +kernel
theorem test_meets_DrainCompletes : MemoryCanonical room ∧ room.path.queue = entry :: List.replicate 6 entry ∧ room.completing .drain = true := by
  unfold MemoryCanonical; decide +kernel
theorem test_meets_PortReadsAndTimers_expiries : (delayed (.ready 1 0 500) 0).delayedEntry 9 = some ⟨9, .ready 1 0 500, 0⟩ ∧
    vget ({ z with path := { z.path with holds := vset z.path.holds 7 (some 10) } } : State).path.holds 7 = some 10 := by decide +kernel

/-- All positions clean but 15 and 31; the event stream with or without work. -/
def dirty (evs : List EventRec) (last : Stream) : State := { z with
  post := { dirty := vset (vset (Vector.replicate 32 false) 15 true) 31 true, lastRow := 31, lastStream := last }, ev := { buffer := evs } }

theorem test_meets_PostingSelectedAndGranted : ((∀ p, z.eligible p = false) ∧ z.eventWork = false ∧ z.post.sel = none ∧ z.path.reload = none) ∧
    ((dirty [event] .row).eventWork = true ∧ (dirty [event] .row).post.lastStream = .row) ∧
    ((dirty [event] .event).eligible ((dirty [event] .event).post.lastRow + 1 + 15) = true ∧
      (∀ j : Fin 32, j < 15 → (dirty [event] .event).eligible ((dirty [event] .event).post.lastRow + 1 + j) = false) ∧
      (dirty [event] .event).post.lastStream = .event ∧ (dirty [] .row).eventWork = false) ∧
    (({ z with post := { z.post with sel := some ⟨.row 31, none⟩ } } : State).streamTxn = none ∧
      ({ room with path := { room.path with fair := 4 } } : State).settings.fairness ≤ 4) := by decide +kernel
theorem test_meets_BurstCompletes : MemoryCanonical busy ∧ BurstWhole busy ∧ busy.post.sel = some ⟨.event, some ⟨event.words, 4⟩⟩ :=
  ⟨by unfold MemoryCanonical; decide +kernel, by intro tg bu h; cases h; decide +kernel, rfl⟩

/-- A reload that has read n words. -/
def reloading (n : Nat) (ok : Bool) : State := { z with path := { z.path with reload := some { next := n, parityOk := ok } } }

/-- A burst of the event with one word written, a READY entry of its fourth word and one of word 9. -/
def bursting : State := { busy with
  post := { busy.post with sel := some ⟨.event, some ⟨event.words, 1⟩⟩ },
  path := { busy.path with delayed := [⟨0x1803, .ready 7 0 500, 2⟩, ⟨9, .ready 7 0 500, 0⟩, ⟨8, .pending, 1⟩] } }

theorem test_meets_ResetsAndReload : (room.engineHolds = false ∧ room.path.begun = none ∧ room.nextTxn = some .drain ∧
      room.path.queue = entry :: List.replicate 6 entry ∧ z.path.begun ≠ some .drain ∧ z.nextTxn ≠ some .drain) ∧
    (bursting.engineHolds = true ∧ bursting.path.begun ≠ some .drain ∧ (2 : Nat) < 4 ∧ event.words[3]? = some 0 ∧
      ((0x1803 : BitVec 24).toNat = (bursting.path.base.toNat * 16384 + (0x2000 + 0x10 * (bursting.ev.producer.toNat % 256))) / 4 + 3) ∧
      ((9 : BitVec 24).toNat < (bursting.path.base.toNat * 16384 + (0x2000 + 0x10 * (bursting.ev.producer.toNat % 256))) / 4 + 1) ∧
      (bursting.burstTo 4).path.delayed = [⟨0x1803, .ready 0 0 500, 2⟩, ⟨9, .ready 7 0 500, 0⟩, ⟨8, .pending, 1⟩]) ∧
    (MemoryCanonical bursting ∧ BurstWhole bursting ∧ bursting.post.sel = some ⟨.event, some ⟨event.words, 1⟩⟩) ∧
    ((reloading 446 true).path.reload = some { next := 446 } ∧ (reloading 446 true).completing .reload = true ∧
      446 + 1 < reloadWords ∧ reloadWords ≤ 447 + 1 ∧ (reloading 447 true).completing .reload = true ∧ (reloading 15 false).completing .reload = true ∧
      Memory.wordParity (Memory.setWord {} 15 1 15 0) 15 ≠ parityOf (Memory.word (Memory.setWord {} 15 1 15 0) 15)) ∧
    (let s : State := { reloading 15 true with cap := { settings := vset settingsImage 15 0 }, mem := Memory.setWord {} 15 0x6A01D412 15 (parityOf 0x6A01D412) }
     areaOf (reloadOffset 15) = .settings 15 ∧ s.mem.wordParity 15 = parityOf (s.mem.word 15) ∧
      (decodeSettings (vset s.cap.settings 15 (s.mem.word 15))).isSome = true) ∧
    areaOf (reloadOffset (16 + 8 * 31 + 7)) = .classRow 31 7 ∧ areaOf (reloadOffset (272 + 8 * 7 + 7)) = .planRow 7 7 ∧
    areaOf (reloadOffset (400 + 15)) = .order 15 ∧ areaOf (reloadOffset 447) = .check 15 ∧
    decodePlan z.classes planImage = some plan7 ∧ plan7.enabled = true ∧ (z.bay 7).assignment = .unassigned ∧
    decodePlan z.classes (vset planImage 7 0) = none ∧ decodeClearance 0x32C0105 0x6A30919F = some ⟨5, .clear, false, 812⟩ ∧
    decodeClearance 0x32C0105 0 = none ∧
    (areaOf (reloadOffset 446) = .request 15 ∧ (∀ n, n < 15 → areaOf (reloadOffset n) ≠ .settings 15)) :=
  ⟨by decide +kernel, by decide +kernel, ⟨by unfold MemoryCanonical; decide +kernel, by intro tg bu h; cases h; decide +kernel, rfl⟩,
    by decide +kernel, by decide +kernel, by decide +kernel, by decide +kernel, by decide +kernel, by decide +kernel, by decide +kernel, rfl, rfl,
    by decide +kernel, by decide +kernel, by decide +kernel, by decide +kernel⟩
theorem test_meets_ReportedRows : isReset .secondAdvance = false ∧ z.path.reload = none ∧ (∃ t, exec .secondAdvance z = .next t) ∧
    Instr.secondAdvance ≠ .postingSelect ∧ vget State.reset.post.dirty 31 = true := ⟨rfl, rfl, ⟨_, rfl⟩, nofun, by decide +kernel⟩

/-! #### Records, orders and clearance requests -/

/-- Images staged but for their check words. -/
def staged : State := { z with cap := { z.cap with
  settings := vset settingsImage 15 0, clockSet := #v[311, 20000, 0], ack := #v[0x3FF, 1, 0],
  classes := vset z.cap.classes 31 (vset classImage 7 0), plans := vset z.cap.plans 7 (vset planImage 7 0) } }

theorem test_meets_SettingsAndClassCommit : Accepts staged (wr 0x6A01D412) ∧ (decodeSettings (vset staged.cap.settings 15 0x6A01D412)).isSome = true ∧
    decodeSettings (vset staged.cap.settings 15 0) = none ∧ (decodeClass (vset (vget staged.cap.classes 31) 7 0x6A100FF6)).isSome = true ∧
    decodeClass (vset (vget staged.cap.classes 31) 7 0) = none := by unfold Accepts Reaches; decide +kernel
/-- The staged images over a bay 7 whose plan names the class 3 or 31, with a session; the settings in force as given. -/
def handed (r : Settings) (c : Fin 32) (x : Session) : State := { staged with
  settings := r, bays := vset z.bays 7 { assignment := .assigned, plan := some { plan7 with classIx := c } }, sessions := vset z.sessions 7 x,
  effective := 26, claims := vset z.claims 7 { standing := some 10, heat := some ⟨16, false, 0, none, true⟩ } }

theorem test_meets_SettingsAndClassCommit_handOver : (decodeSettings (vset staged.cap.settings 15 0x6A01D412)).map (fun n => (n.target, n.quantum, n.band)) =
      some (700, 10, 1) ∧
    (∀ r ∈ [{}, { target := 700, band := 1 }, { target := 20 }, { quantum := 9, target := 700, band := 1 : Settings }],
      ∀ x ∈ [{ state := .booked }, { state := .waiting }, { state := .waiting, frozen := true }, { state := .heating : Session }],
      let s := handed r 3 x
      Accepts s (wr 0x6A01D412) ∧ (s.bay 7).plan = some plan7 ∧ vget s.classes 3 = some cls ∧ (s.session 7).state = x.state ∧
        (s.claim 7).heat.isSome = true) ∧
    (handed { target := 20 } 3 {}).settings.target < (handed { target := 20 } 3 {}).effective ∧
    (handed { target := 20 } 3 {}).granted ≤ 700 ∧
    (let s := handed {} 31 { state := .booked }
     Accepts s (wr 0x6A100FF6) ∧ decodeClass (vset (vget s.cap.classes 31) 7 0x6A100FF6) = some cls ∧
      ((s.bay 7).plan.map (·.classIx)) = some 31 ∧ (s.session 7).frozen = false ∧ (s.session 7).state = .booked ∧ (s.bay 6).plan = none) := by
  unfold Accepts Reaches; decide +kernel
/-- A word of an image replaced, and the sum made good in its last word (R34). -/
def mended {n : Nat} (v : Vector Word (n + 1)) (k : Fin (n + 1)) (w : Word) : Vector Word (n + 1) :=
  let u := vset v k w
  let last := vget u (Fin.last n) &&& 0xFFFF0000
  let sum := ((vset u (Fin.last n) last).toList.map fun x => x.toNat % 65536 + x.toNat / 65536).sum % 65536
  vset u (Fin.last n) (last ||| BitVec.ofNat 32 ((65536 - sum) % 65536))

theorem test_meets_RowCheckAccepts_settings : let m := fun k w => (decodeSettings (mended settingsImage k w)).isSome
    m 0 0x30FFF = true ∧ m 0 0x31000 = false ∧ m 0 0x40FFF = false ∧ m 0 0x80010FFF = false ∧ m 1 0x0101F0F0 = true ∧ m 1 0x0101F0F1 = false ∧
    m 1 0x0101F1F0 = false ∧ m 1 0x0100F0F0 = false ∧ m 1 0x0001F0F0 = false ∧ m 2 0x023C1E1E = true ∧ m 2 0x023D1E1E = false ∧
    m 2 0x013C1E1E = false ∧ m 2 0x3D3C1E1E = false ∧ m 2 0x023C1F1E = false ∧ m 2 0x023C1E1F = false ∧ m 2 0x023C001E = false ∧ m 3 0x00101010 = true ∧
    m 3 0x000F1010 = false ∧ m 3 0x00101110 = false ∧ m 3 0x00101011 = false ∧ m 3 0x00101000 = false ∧ m 3 0x01101010 = false ∧
    m 4 0x03FF03FF = true ∧ m 4 0x03FF0400 = false ∧ m 4 0x040003FF = false ∧ m 5 1 = false ∧ m 14 0x80000000 = false ∧ m 15 0x6A020000 = false := by
  decide +kernel
theorem test_meets_RowCheckAccepts_class : let m := fun k w => (decodeClass (mended classImage k w)).isSome
    m 0 0xFFFFFFFF = true ∧ m 2 0x81833C05 = true ∧ m 2 0x81833D05 = false ∧ m 2 0x81830005 = false ∧ m 2 0x81831406 = false ∧ m 2 0x85831403 = false ∧
    m 2 0x81871403 = false ∧ m 3 0x4 = false ∧ m 3 0x102 = false ∧ m 4 0x200 = false ∧ m 4 0x7F0201 = true ∧ m 6 1 = false := by decide +kernel
theorem test_meets_RowCheckAccepts_plan : let m := fun k w => (decodePlan z.classes (mended planImage k w)).isSome
    m 0 0x301 = true ∧ m 0 0x203 = false ∧ m 0 0x307 = false ∧ m 0 0x2003 = false ∧ m 1 0xFFFF423F = true ∧ m 1 0xFFFF4240 = false ∧
    m 1 0xFFF00001 = true ∧ m 1 0xFFF00000 = false ∧ m 2 0 = true ∧ m 2 1 = false ∧ m 2 0x859FFFFF = true ∧ m 2 0x85A0FFFF = false ∧
    m 3 0x88000000 = false ∧ m 4 1 = false ∧ m 6 1 = false ∧
    decodePlan z.classes (mended (vset planImage 6 1) 0 0x2002) = some {} ∧ (decodePlan z.classes (vset planImage 0 0x2002)).isSome = false := by decide +kernel
theorem test_meets_RowCheckAccepts_small : decodeClockSet (mended #v[0, 0, 0x6A020000] 1 86399) = some ⟨0, 86399⟩ ∧
    decodeClockSet (mended #v[0, 0, 0x6A020000] 1 86400) = none ∧ decodeClockSet (mended #v[0, 0, 0x6A020000] 0 0x10000) = none ∧
    decodeAck (mended #v[0, 0, 0x6A030000] 0 0x3FF) = some ⟨0x3FF, 0⟩ ∧ decodeAck (mended #v[0, 0, 0x6A030000] 0 0x400) = none ∧
    decodeClearance 0x32C0105 0x6A30919F = some ⟨5, .clear, false, 812⟩ ∧ decodeClearance 0x32C0505 0x6A308D9F = some ⟨5, .clear, true, 812⟩ ∧
    decodeClearance 0x32C0005 0x6A30929F = none ∧ decodeClearance 0x32C0305 0x6A308F9F = none ∧ decodeClearance 0x132C0105 0x6A30819F = none := by
  decide +kernel
theorem test_meets_ClockSetAndTrim : Accepts staged (wr 0x6A0246A7) ∧ decodeClockSet (vset staged.cap.clockSet 2 0x6A0246A7) = some ⟨311, 20000⟩ ∧
    decodeClockSet (vset staged.cap.clockSet 2 0) = none ∧ z.clock.valid = false ∧ used.clock.valid = true ∧ used.clock.sec % 60 < 30 ∧
    86399 - 86399 % 60 + 60 = 86400 ∧ 30 ≤ 86370 % 60 ∧ 86369 % 60 < 30 := by unfold Accepts Reaches; decide +kernel
theorem test_meets_ClockAdvances : used.clock.valid = true ∧ z.clock.valid = false ∧
    (∀ r, Instr.secondAdvance ≠ .powerOn r) ∧ (∃ t, exec .secondAdvance used = .next t) ∧ (∃ t, exec (.powerOn ⟨0, false, 0⟩) used = .next t) ∧
    (∃ t, exec (.resetLine ⟨0, false, 0⟩) used = .next t) ∧ Accepts staged (wr 0x6A0246A7) ∧
    decodeClockSet (vset staged.cap.clockSet 2 (mergeWord (vget staged.cap.clockSet 2) (wr 0x6A0246A7).data (wr 0x6A0246A7).enables)) = some ⟨311, 20000⟩ :=
  ⟨rfl, rfl, nofun, ⟨_, rfl⟩, ⟨_, rfl⟩, ⟨_, rfl⟩, by unfold Accepts Reaches; decide +kernel, by decide +kernel⟩

/-- The plan image of a bay with another first word and check word; the bay assigned or not. -/
def plans (a : Assignment) (coach : Nat) : State := { staged with
  bays := vset z.bays 7 { assignment := a, plan := some { plan7 with coachId := coach } } }

theorem test_meets_PlanCommit : SignalLaw (plans .assigned 1) ∧ Accepts (plans .assigned 1) (wr 0x6A203D86) ∧
    decodePlan z.classes (vset (vget staged.cap.plans 7) 7 0x6A203D86) = some plan7 ∧ decodePlan z.classes (vset (vget staged.cap.plans 7) 7 0) = none ∧
    decodePlan z.classes (vset (Vector.replicate 8 0) 7 0x6A2095E0) = some {} ∧
    ((plans .assigned 204118).bay 7).plan = some plan7 ∧ ((plans .assigned 204118).bay 7).assignment = .assigned ∧
    ((plans .assigned 1).bay 7).plan = some { plan7 with coachId := 1 } ∧ ((plans .departed 1).bay 7).assignment ≠ .assigned ∧
    (z.bay 7).assignment = .unassigned := by unfold SignalLaw Accepts Reaches; decide +kernel
/-- The staged plan image over a plan copy of the same coach and class with another ready-by time, and a session. -/
def amending (readyBy : Option Nat) (x : Session) : State := { staged with
  bays := vset z.bays 7 { assignment := .assigned, plan := some { plan7 with readyBy := readyBy } }, sessions := vset z.sessions 7 x }

theorem test_meets_PlanCommit_amendment : plan7.readyBy = some 448185 ∧ vget z.classes plan7.classIx = some cls ∧
    (∀ o ∈ [none, some 448000, some 448185], ∀ x ∈ [{}, { state := .booked }, { state := .waiting }, { state := .waiting, frozen := true },
        { state := .heating, frozen := true }, { state := .paused, frozen := true }, { state := .complete : Session }],
      SignalLaw (amending o x) ∧ Accepts (amending o x) (wr 0x6A203D86) ∧ ((amending o x).bay 7).plan = some { plan7 with readyBy := o } ∧
      (amending o x).session 7 = x) ∧
    SState.booked.live = true ∧ SState.complete.live = false ∧
    (decodePlan z.classes (mended planImage 3 0)).map (·.readyBy) = some none := by
  unfold SignalLaw Accepts Reaches; decide +kernel
theorem test_meets_AcknowledgeCommit : Accepts staged (wr 0x6A0391FD) ∧
    decodeAck (vset staged.cap.ack 2 (mergeWord (vget staged.cap.ack 2) (wr 0x6A0391FD).data (wr 0x6A0391FD).enables)) = some ⟨0x3FF, 1⟩ := by
  unfold Accepts Reaches; decide +kernel
theorem test_meets_HeartbeatAndIndex : Accepts z (wr 0) ∧ (mergeWord z.cap.progress 0xFF00 15).extractLsb' 0 16 = 0xFF00#16 ∧
    (z.ev.producer - 0xFF00).toNat = 256 ∧ (z.ev.producer - 0xFEFF).toNat = 257 ∧
    ({ z with hb := ⟨.live, some 9, 10, 0⟩ } : State).hb.timer = some 9 ∧ ({ z with hb := ⟨.silent, none, 10, 0⟩ } : State).hb.state = .silent ∧
    (∃ t, exec (.resetLine ⟨0, false, 0⟩) z = .next t) :=
  ⟨by unfold Accepts Reaches; decide +kernel, by decide +kernel, by decide +kernel, by decide +kernel, rfl, rfl, _, rfl⟩

/-- Bay 7 assigned, occupied and plugged. -/
def here : State := { z with
  bays := vset z.bays 7 { assignment := .assigned, plan := some plan7 },
  lines := vset z.lines 7 { presence := ⟨true, true, none⟩, plug := ⟨true, true, none⟩ } }

theorem test_meets_ChecksOrdered : Orders here 7 (wr 0x105) .lampCheck ∧ here.isAssigned 7 = true ∧ here.occupied 7 = true ∧ here.plugged 7 = true ∧
    (here.clearance 7).state.needsOpen = false ∧ (here.act 7 .lamp).stage = .none ∧ (here.ctr 7).state ≠ .welded ∧ here.admEntry 7 .lamp = none ∧
    (here.claim 7).lamp = none ∧ Orders here 7 (wr 0x205) .faultRead ∧ Orders here 7 (wr 0x305) .faultReadErase ∧ (here.act 7 .fault).stage = .none ∧
    here.chanEntry 7 .fault = none ∧ here.linkOf 7 .fault = none := by unfold Orders Accepts Reaches; decide +kernel

/-- Bay 7's contactor in a state, with a limit due. -/
def ctrIn (st : CtrState) (fed claimed : Bool) : State := { here with
  ctrs := vset z.ctrs 7 { state := st, limit := some 50, heat := claimed },
  lines := vset z.lines 7 { presence := ⟨true, true, none⟩, plug := ⟨true, true, none⟩, feedback := ⟨fed, fed, none⟩ } }

theorem test_meets_CancelsAndRelease : Orders here 7 (wr 0x405) .cancelHeat ∧ Orders here 7 (wr 0x505) .cancelChecks ∧
    Orders (ctrIn .welded false false) 7 (wr 0x605) .releaseContactor ∧ ((ctrIn .welded false false).ctr 7).state = .welded ∧
    (ctrIn .welded false false).fedBack 7 = false ∧ (ctrIn .welded false false).effective ≤ (ctrIn .welded false false).settings.target ∧
    SState.heating.live = true ∧ (here.session 7).state.live = false := by unfold Orders Accepts Reaches; decide +kernel

/-- A held request word, with the queue at six or seven entries. -/
def asked (action : Nat) (n : Nat) : State := { here with path := { z.path with
  held := vset z.path.held 7 (some (BitVec.ofNat 32 (0x32C0005 + 0x100 * action))), queue := List.replicate n entry } }

theorem test_meets_HeldSlot : Reaches fullq (wr 1) ∧ isReset .reloadReadComplete = true ∧ isReset (.powerOn ⟨0, false, 0⟩) = true ∧
    (∃ t, exec .reloadReadComplete z = .next t) ∧ (∃ t, exec (.powerOn ⟨0, false, 0⟩) z = .next t) :=
  ⟨by unfold Reaches; decide +kernel, rfl, rfl, ⟨_, rfl⟩, ⟨_, rfl⟩⟩
theorem test_meets_CheckWordSteps : Reaches (asked 1 6) (wr 0x6A30919F) ∧ vget z.path.held 7 = none ∧
    decodeClearance 0x32C0105 (mergeWord 0 0x6A30919F 15) = some ⟨5, .clear, false, 812⟩ ∧ decodeClearance 0x32C0105 (mergeWord 0 0x6A30919F 14) = none ∧
    vget (asked 1 6).path.held 7 = some 0x32C0105 ∧ (asked 1 6).path.queue.length + 2 ≤ queueCapacity ∧
    queueCapacity < (asked 1 7).path.queue.length + 2 := by unfold Reaches; decide +kernel

/-- The clearance conditions of bay 7 all met, but for the plug where it is IN. -/
def ready (plug : Bool) : State := { asked 1 6 with
  clock := ⟨true, 311, 20000, 0⟩, hb := ⟨.live, some 99, 10, 0⟩,
  bays := vset z.bays 7 { assignment := .assigned, plan := some { plan7 with readyBy := none }, seen := some ⟨204118, 7⟩ },
  lines := vset z.lines 7 { presence := ⟨true, true, none⟩, plug := ⟨plug, plug, none⟩ },
  lampRes := vset z.lampRes 7 { judged := some .pass, judgeTime := some ⟨311, 19000⟩ },
  summaries := vset z.summaries 7 { completeTime := some ⟨311, 19000⟩ } }

theorem test_meets_ClearVerdicts : Reaches (ready false) (wr 0x6A30919F) ∧ (ready false).path.queue.length + 2 ≤ queueCapacity ∧
    vget (ready false).path.held 7 = some 0x32C0105 ∧ decodeClearance 0x32C0105 (mergeWord 0 0x6A30919F 15) = some ⟨5, .clear, false, 812⟩ ∧
    ((ready false).clearance 7).lastSeq ≠ some 5 ∧ ((ready false).clearance 7).state = .none ∧ (ready false).failing 7 ⟨false, 812, 5⟩ = 0 ∧
    (ready true).failing 7 ⟨false, 812, 5⟩ = rPlug ∧ rPlug &&& ~~~ (ready true).waitable 7 = 0 ∧
    z.failing 7 ⟨false, 812, 5⟩ &&& ~~~ z.waitable 7 ≠ 0 ∧ ((clrIn .preparing).clearance 7).state ≠ .none ∧
    ((clrIn .preparing).clearance 7).lastSeq ≠ some 6 := by unfold Reaches; decide +kernel
theorem test_meets_VettingConditions : ((ready false).bay 7).plan.map (·.classIx) = some 3 ∧ vget (ready false).classes 3 = some cls ∧
    ((ready false).bay 7).seen = some ⟨204118, 7⟩ ∧ Fresh (ready false) ((ready false).lampResult 7).judgeTime 60 ∧ ¬ Fresh z (z.lampResult 7).judgeTime 60 ∧
    HoldsBlocking { z with tables := vset z.tables 7 table1 } 7 ∧ ¬ HoldsBlocking z 7 := by
  refine ⟨by decide +kernel, by decide +kernel, by decide +kernel, ⟨⟨311, 19000⟩, by decide +kernel⟩, fun ⟨t, h, _⟩ => ?_, ⟨7, _, rfl, rfl, rfl⟩,
    fun ⟨k, x, h, _⟩ => ?_⟩
  · exact absurd h (by simp [z, State.lampResult, vget])
  · rw [test_tables.2] at h; exact nomatch h
theorem test_meets_ClearanceCancel_checks : ∀ o ∈ [Origin.clearance, .order, .auto], ∀ st ∈ [Stage.none, .supply, .queued, .running, .closing],
    let s : State := { asked 2 6 with
      clr := vset z.clr 7 { state := .preparing, request := some ⟨false, 812, 4⟩, lastSeq := some 4 },
      lampActs := vset z.lampActs 7 { stage := st, origin := some o }, faultActs := vset z.faultActs 7 { stage := st, origin := some o } }
    Reaches s (wr 0x6A30909F) ∧ (s.clearance 7).state ≠ .none ∧ (s.clearance 7).lastSeq ≠ some 5 ∧
      (s.act 7 .lamp).origin = some o ∧ (s.act 7 .lamp).stage = st ∧ (s.act 7 .fault).stage = st ∧ (s.act 7 .lamp).previous = false := by
  unfold Reaches; decide +kernel
theorem test_meets_ClearanceCancel : Reaches (asked 2 6) (wr 0x6A30909F) ∧ vget (asked 2 6).path.held 7 = some 0x32C0205 ∧
    decodeClearance 0x32C0205 (mergeWord 0 0x6A30909F 15) = some ⟨5, .cancel, false, 812⟩ ∧ ((asked 2 6).clearance 7).state = .none ∧
    ((asked 2 6).clearance 7).lastSeq ≠ some 5 ∧ (∀ st ∈ [ClrState.preparing, .cleared, .suspended, .departing], ((clrIn st).clearance 7).state ≠ .none) := by
  unfold Reaches; decide +kernel

/-! #### Lines, contactor and timers -/

/-- Bay 7's four lines settling to a level by 40, over a state. -/
def settlingTo (s : State) (lv : Bool) : State :=
  { s with lines := vset s.lines 7 ⟨⟨lv, !lv, some 40⟩, ⟨lv, !lv, some 40⟩, ⟨lv, !lv, some 40⟩, ⟨lv, !lv, some 40⟩⟩, hold := ⟨lv, !lv, some 40⟩ }

theorem test_meets_LineLevelChange : Line.plug 6 ≠ .plug 7 ∧ Line.hold ≠ .plug 7 ∧ (lineOf z .hold).taken = false ∧
    (lineOf (settlingTo z true) (.plug 7)).level = true := by decide +kernel

/-- Bay 7's session in a state, its start reached; the clock VALID. -/
def heatIn (s : State) (st : SState) : State := { s with
  clock := ⟨true, 311, 20000, 0⟩,
  sessions := vset s.sessions 7 { state := st, required := 30, start := some 448000, since := some 5, phase := .granted, pausePlug := true } }

theorem test_meets_PresenceChanges : Settling ((settlingTo here true).line 7).presence true 40 ∧ Settling ((settlingTo here false).line 7).presence false 40 ∧
    ((heatIn here .booked).session 7).state = .booked ∧ ((heatIn here .booked).session 7).required ≠ 0 ∧ (heatIn here .booked).startReached 7 = true ∧
    (heatIn here .booked).isAssigned 7 = true ∧ (heatIn here .booked).plugged 7 = true ∧ (here.bay 7).assignment = .assigned ∧
    (z.bay 7).assignment ≠ .assigned ∧ ((clrIn .departing).clearance 7).state = .departing ∧ ((clrIn .departing).ctr 7).state = .open ∧
    ((heatIn here .heating).session 7).state.live = true := by unfold Settling; decide +kernel
theorem test_meets_PresenceChanges_departure : ∀ st ∈ [ClrState.none, .preparing, .cleared, .suspended, .departing],
    let s := settlingTo (clrIn st) false
    Settling (s.line 7).presence false 40 ∧ ContactorLaw s ∧ (s.bay 7).assignment = .assigned ∧ (s.clearance 7).request = some ⟨false, 812, 5⟩ ∧
      s.path.reload = none ∧ (s.clearance 7).state = st ∧ (s.bay 7).plan = some plan7 := by unfold Settling ContactorLaw; decide +kernel
theorem test_meets_ClearVerdicts_waiver : let s : State := { heatIn (ready true) .paused with path := { (ready true).path with
      held := vset z.path.held 7 (some 0x32C0505) } }
    Reaches s (wr 0x6A308D9F) ∧ decodeClearance 0x32C0505 (mergeWord 0 0x6A308D9F 15) = some ⟨5, .clear, true, 812⟩ ∧
    (s.clearance 7).state = .none ∧ s.failing 7 ⟨true, 812, 5⟩ &&& ~~~ s.waitable 7 = 0 ∧ (s.session 7).state.live = true ∧
    (let u : State := { ready true with lampRes := z.lampRes, summaries := z.summaries }
     Reaches u (wr 0x6A30919F) ∧ u.failing 7 ⟨false, 812, 5⟩ ≠ 0 ∧ u.failing 7 ⟨false, 812, 5⟩ &&& ~~~ u.waitable 7 = 0 ∧
      u.freshLamp 7 = false ∧ u.freshRead 7 = false ∧ u.admEntry 7 .lamp = none ∧ (u.claim 7).lamp = none ∧ u.chanEntry 7 .fault = none ∧
      u.linkOf 7 .fault = none ∧ (u.act 7 .lamp).stage = .none ∧ (u.act 7 .fault).stage = .none) := by unfold Reaches; decide +kernel
theorem test_meets_PlugChanges : Settling ((settlingTo here false).line 7).plug false 40 ∧ (settlingTo here false).path.reload = none ∧
    Settling ((settlingTo here true).line 7).plug true 40 ∧ ((ctrIn .closed true true).ctr 7).state = .closed ∧ (ctrIn .closed true true).fedBack 7 = true ∧
    ((ctrIn .closing false true).ctr 7).state = .closing ∧ ((ctrIn .welded true false).ctr 7).state = .welded ∧
    ((heatIn here .heating).session 7).state = .heating ∧
    ((heatIn here .heating).advanceTo 40).accumulated 7 ≠ ((heatIn here .heating).session 7).requiredUnits ∧ ((heatIn here .heating).session 7).since ≠ none ∧
    ((clrIn .cleared).clearance 7).state = .cleared ∧ ((clrIn .suspended).clearance 7).state = .suspended ∧
    ((clrIn .cleared).session 7).state ≠ .booked ∧ ((heatIn here .paused).session 7).state = .paused ∧ ((heatIn here .paused).session 7).pausePlug = true := by
  unfold Settling; decide +kernel
theorem test_meets_ExitLoopChanges : Settling ((settlingTo (clrIn .cleared) true).line 7).loop true 40 ∧
    ((settlingTo (clrIn .cleared) true).clearance 7).state = .cleared ∧ ((settlingTo (clrIn .cleared) true).ctr 7).state = .open ∧
    Settling ((settlingTo (clrIn .departing) false).line 7).loop false 40 ∧ (settlingTo (clrIn .departing) false).occupied 7 = true ∧
    ((clrIn .suspended).clearance 7).state = .suspended ∧ ((clrIn .preparing).clearance 7).state = .preparing := by unfold Settling; decide +kernel
theorem test_meets_YardHoldChanges : Settling (settlingTo (clrIn .cleared) true).hold true 40 ∧ (settlingTo (clrIn .cleared) true).path.reload = none ∧
    ContactorLaw (settlingTo (clrIn .cleared) true) ∧ ((settlingTo (clrIn .cleared) true).clearance 7).state = .cleared ∧
    ((settlingTo (clrIn .cleared) true).clearance 7).lapse = .running 900 ∧ Settling (settlingTo (clrIn .suspended) false).hold false 40 ∧
    ((settlingTo (clrIn .suspended) false).clearance 7).state = .suspended ∧ ((settlingTo (clrIn .suspended) false).clearance 7).request ≠ none := by
  unfold Settling ContactorLaw; decide +kernel
/-- A SUSPENDED clearance of bay 7 with the yard hold about to be released, over a state. -/
def suspended (s : State) (waiver : Bool) : State := { s with
  hold := ⟨false, true, some 40⟩,
  clr := vset z.clr 7 { state := .suspended, request := some ⟨waiver, 812, 5⟩, lastSeq := some 5, lapse := .paused 860 } }

theorem test_meets_YardHoldChanges_release : let after := fun s : State => { s with timeBase := max s.timeBase 40, hold := ⟨false, false, none⟩ }
    let met := suspended (ready false) false
    let failed := suspended (ready true) false
    let waived := suspended (heatIn (ready false) .paused) true
    Settling met.hold false 40 ∧ met.path.reload = none ∧ (met.clearance 7).request = some ⟨false, 812, 5⟩ ∧ (met.clearance 7).lapse = .paused 860 ∧
    (after met).failing 7 ⟨false, 812, 5⟩ = 0 ∧ Settling failed.hold false 40 ∧ (after failed).failing 7 ⟨false, 812, 5⟩ = rPlug ∧
    Settling waived.hold false 40 ∧ (after waived).failing 7 ⟨true, 812, 5⟩ = 0 ∧ (waived.session 7).state.live = true := by
  unfold Settling; decide +kernel
theorem test_meets_FeedbackChanges : (∀ st ∈ [CtrState.open, .closing, .closed, .opening, .failedClose, .welded],
      ((settlingTo (ctrIn st false true) true).ctr 7).state = st ∧ (settlingTo (ctrIn st false true) true).path.reload = none) ∧
    Settling ((settlingTo (ctrIn .closing false true) true).line 7).feedback true 40 ∧ Settling ((settlingTo (ctrIn .closed true true) false).line 7).feedback false 40 ∧
    ((heatIn (ctrIn .closing false true) .waiting).session 7).state = .waiting ∧ ((heatIn (ctrIn .closing false true) .waiting).session 7).phase = .granted ∧
    ((ctrIn .closing false true).ctr 7).heat = true ∧ ((ctrIn .opening true false).ctr 7).claimed = false ∧ ((ctrIn .opening true true).ctr 7).claimed = true := by
  unfold Settling; decide +kernel
/-- Channel 3 works for bay 7: an exchange in a state. -/
def linked (a : Activity) (r : Request) (st : AttemptState) (stage : Stage) : State := { here with
  links := vset z.links 3 { holder := some (7, a), seq := 15, exch := some ⟨r, 1, st, false, 0⟩, wakeTimer := some 300 },
  lampActs := vset z.lampActs 7 (if a == .lamp then { stage := stage } else {}),
  faultActs := vset z.faultActs 7 (if a == .fault then { stage := stage } else {}) }

theorem test_meets_ContactorLimits : (∀ st ∈ [CtrState.closing, .opening],
      let s := ctrIn st (st == .opening) true
      (s.ctr 7).state = st ∧ (s.ctr 7).limit = some 50 ∧ s.path.reload = none ∧ (s.ctr 7).heat = true ∧ ((heatIn s .heating).session 7).state = .heating ∧
      ((heatIn s .waiting).session 7).state = .waiting ∧ ((heatIn s .waiting).session 7).phase = .granted ∧
      ((ctrIn st (st == .opening) false).ctr 7).claimed = false) ∧
    (∀ stage ∈ [Stage.queued, .running, .closing],
      let s : State := { here with ctrs := vset z.ctrs 7 { state := .closing, limit := some 50, lamp := true }, lampActs := vset z.lampActs 7 { stage := stage } }
      (s.ctr 7).lamp = true ∧ (s.act 7 .lamp).stage = stage ∧ (s.act 7 .lamp).previous = false ∧ s.exchOf 7 .lamp = none ∧ (s.lampWorkOf 7).lit = none) ∧
    (linked .lamp .ident .sending .running).exchOf 7 .lamp = some ⟨.ident, 1, .sending, false, 0⟩ := by decide +kernel

/-- Bay 7 waits for supply, for channels and with the reservation timer. -/
def waits : State := { here with
  admList := [⟨7, .lamp, true, 1, some 60⟩], poolList := [⟨7, .fault, .read, true, 1, .order, 0, 90⟩, ⟨7, .lamp, .read, true, 2, .order, 0, 90⟩],
  resTimer := some (7, 70), lampActs := vset z.lampActs 7 { stage := .supply } }

theorem test_meets_WaitLimits : waits.admEntry 7 .lamp = some ⟨7, .lamp, true, 1, some 60⟩ ∧ waits.path.reload = none ∧ (waits.act 7 .lamp).stage = .supply ∧
    (waits.act 7 .lamp).previous = false ∧ waits.chanEntry 7 .fault = some ⟨7, .fault, .read, true, 1, .order, 0, 90⟩ ∧
    (waits.chanEntry 7 .lamp).isSome = true ∧ waits.resTimer = some (7, 70) := by decide +kernel
theorem test_meets_HeatTimes : let s : State := { z with claims := vset z.claims 7 { heat := some ⟨16, false, 0, some 30, false⟩ } }
    (s.claim 7).heat = some ⟨16, false, 0, some 30, false⟩ ∧ ((heatIn here .heating).session 7).since = some 5 ∧
    ((heatIn here .heating).session 7).shown < ((heatIn here .heating).session 7).required ∧ here.path.reload = none ∧
    ((heatIn here .heating).session 7).phase = .granted ∧ ((heatIn (ctrIn .closed true true) .heating).ctr 7).heat = true := by decide +kernel

/-- A session of bay 7 at a minute event. -/
def atMinute (x : Session) : State := { heatIn here .none with sessions := vset z.sessions 7 x }

theorem test_meets_ClockSetAndTrim_minute : (reloading 0 true).path.reload.isSome = true ∧ (atMinute {}).path.reload = none ∧
    (let s := heatIn here .booked
     (s.session 7).state = .booked ∧ (s.session 7).required ≠ 0 ∧ s.startReached 7 = true ∧ s.isAssigned 7 = true ∧ s.occupied 7 = true ∧ s.plugged 7 = true) ∧
    (atMinute { state := .waiting, start := some 448000 }).startReached 7 = true ∧ (atMinute { state := .booked }).startReached 7 = false ∧
    (∀ x ∈ [{ state := .waiting, required := 1 }, { state := .waiting }, { state := .paused, pauseShed := true : Session }],
      x.phase = .noEntry ∧ (x.required ≠ 0 ∨ (atMinute x).startReached 7 = false) ∧ (atMinute x).barred 7 .heat = false ∧
      (atMinute x).admEntry 7 .heat = none ∧ ((atMinute x).claim 7).heat = none) ∧
    (some 448000).any (fun t => (atMinute { state := .heating, readyBy := some 448000 }).reached t) = true ∧ SState.heating.live = true ∧
    ((atMinute {}).bay 7).plan = some plan7 ∧ plan7.autoChecks = true ∧ plan7.roster = some 448215 ∧
    (atMinute {}).reached (minusMinutes 448215 (atMinute {}).settings.checkLead) = true ∧ ((atMinute {}).clearance 7).state = .none ∧
    ((atMinute {}).bay 7).autoLamp = false ∧ (atMinute {}).freshLamp 7 = false ∧ ((atMinute {}).act 7 .lamp).stage = .none ∧
    (atMinute {}).barred 7 .lamp = false ∧ (atMinute {}).admEntry 7 .lamp = none ∧ ((atMinute {}).claim 7).lamp = none ∧
    ((atMinute {}).bay 7).autoFault = false ∧ (atMinute {}).freshRead 7 = false ∧ (atMinute {}).chanEntry 7 .fault = none ∧
    (atMinute {}).linkOf 7 .fault = none := by decide +kernel

/-! #### Rounds of settle -/

/-- What Admission is asked for, over the bay that claims 26 A under a target of 20. -/
def above (x : Agenda) : State := { claiming with agenda := x }
/-- An URGENT entry of another bay stands in the list, and bay 7's HEAT component is eligible. -/
def overHead : State := { claiming with admList := [⟨6, .lamp, true, 1, none⟩] }

/-- A target of 700 in force. -/
def plenty (s : State) : State := { s with settings := { target := 700 }, effective := 700 }

theorem test_claiming : ∀ c : Bay, c = 7 ∨ (claiming.claim c).heat = none := by decide +kernel
theorem test_meets_AdmissionRounds_shed : FirstToShed (above { shed := true }) (fun c h => h.urgent = false ∨
      ∀ d k, ((above { shed := true }).claim d).heat = some k → k.urgent = true) 7 ∧
    FirstToShed overHead (fun c h => h.urgent = false ∧ h.eligible = true ∧ c ≠ 6) 7 := by
  refine ⟨⟨⟨_, rfl, Or.inl rfl⟩, fun c h hc _ hne => ?_⟩, ⟨⟨_, rfl, rfl, rfl, by decide⟩, fun c h hc _ hne => ?_⟩⟩
  all_goals
    rcases test_claiming c with k | k
    · exact absurd k hne
    · exact nomatch (k.symm.trans hc)
theorem test_meets_AdmissionRounds : (above { shed := true }).settings.target < (above { shed := true }).projected ∧
    (above {}).settings.target < (above {}).effective ∧ z.effective ≤ z.settings.target ∧
    (let s : State := { z with effective := 26, settings := { target := 20 } }; s.settings.target < s.effective ∧ s.projected ≤ s.settings.target) ∧
    ((plenty waits).admEntry 7 .lamp).isSome = true ∧ (plenty waits).lampAmount 7 + (plenty waits).standingAmount 7 = 50 ∧ 0 + 50 ≤ (plenty waits).settings.target ∧
    (plenty waits).settings.target < 660 + 50 ∧
    (let s := { plenty here with admList := [⟨7, .heat, false, 1, none⟩] }
     (s.admEntry 7 .heat).isSome = true ∧ 0 + (s.heatAmount 7 + s.standingAmount 7) ≤ s.settings.target ∧ s.settings.target < 690 + s.heatAmount 7 ∧
     (∀ e ∈ s.admList, e.urgent = false)) ∧
    here.classOf 7 = some cls ∧
    (let s := atMinute { state := .waiting, phase := .listed }
     (s.session 7).phase = .listed ∧ s.plugged 7 = true ∧ (s.ctr 7).state = .open ∧ (s.ctr 7).heat = false) ∧
    overHead.admList.find? (fun e => e.urgent) = some ⟨6, .lamp, true, 1, none⟩ ∧
    overHead.settings.target < overHead.projected + overHead.entryAmount 6 .lamp ∧
    (plenty waits).admList.find? (fun e => e.urgent) = some ⟨7, .lamp, true, 1, some 60⟩ ∧
    (plenty waits).projected + (plenty waits).entryAmount 7 .lamp ≤ (plenty waits).settings.target ∧ (∀ b, (waits.claim b).heat = none) ∧
    (claiming.claim 7).heat = some ⟨16, false, 0, none, true⟩ ∧ claiming.path.reload = none ∧ claiming.settings.target < claiming.effective ∧
    claiming.granted - 16 ≤ claiming.settings.target ∧
    (let s := heatIn claiming .heating; (s.session 7).state = .heating ∧ s.accumulated 7 ≠ (s.session 7).requiredUnits) ∧
    (29 : Nat) < ({ z with effective := 30 } : State).effective ∧ z.granted ≤ z.settings.target ∧ claiming.settings.target < claiming.granted := by
  decide +kernel

/-- A PREPARING clearance of bay 7 with a request, in a state. -/
def preparing (s : State) (waiver : Bool) : State := { s with
  clr := vset s.clr 7 { state := .preparing, request := some ⟨waiver, 812, 5⟩, lastSeq := some 5 }, agenda := { vet := vset (Vector.replicate 16 false) 7 true } }
/-- An entry of bay 7 in the channel list. -/
def listed (a : Activity) : State := { here with poolList := [⟨7, a, .read, true, 1, .order, 0, 90⟩] }

theorem test_meets_PoolAndVettingRounds : (listed .fault).agenda.admission = false ∧ (preparing here false).agenda.pool = false ∧
    vget (preparing here false).agenda.vet 7 = true ∧ (∀ b', b' < 7 → vget (preparing here false).agenda.vet b' = false) ∧
    (∀ b, vget z.agenda.vet b = false) ∧ (listed .fault).chanEntry 7 .fault ≠ none ∧ (listed .lamp).chanEntry 7 .lamp ≠ none ∧
    (∀ k, ((listed .fault).link k).select ≠ some 7) ∧ ((listed .fault).link 0).holder = none ∧ (listed .fault).reservation = none ∧
    ((listed .lamp).lampCh 0).holder = none ∧ (listed .fault).linkOf 7 .fault = none ∧ (listed .fault).classOf 7 = some cls ∧
    ((listed .lamp).lampWorkOf 7).supplyOn = false ∧
    (let s : State := { listed .fault with links := vset z.links 2 { holder := some (7, .lamp) }, reservation := some 3 }
     (s.link 2).select = some 7 ∧ s.reservation ≠ none) ∧
    (let s : State := { listed .lamp with links := Vector.replicate 4 { holder := some (3, .lamp) }, lampChs := Vector.replicate 2 { holder := some 3 } }
     (∀ k, (s.link k).holder ≠ none) ∧ ∀ k, (s.lampCh k).holder ≠ none) ∧
    ((preparing here false).clearance 7).state = .preparing ∧ ((preparing here false).clearance 7).request = some ⟨false, 812, 5⟩ ∧
    (preparing z false).failing 7 ⟨false, 812, 5⟩ &&& ~~~ (preparing z false).waitable 7 ≠ 0 ∧ (preparing z false).path.reload = none ∧
    (preparing (heatIn (ready true) .paused) true).failing 7 ⟨true, 812, 5⟩ &&& ~~~ (preparing (heatIn (ready true) .paused) true).waitable 7 = 0 ∧
    SState.paused.live = true ∧ (preparing (ready false) false).failing 7 ⟨false, 812, 5⟩ = 0 ∧
    (let s := preparing { ready true with lampRes := z.lampRes, summaries := z.summaries } false
     s.failing 7 ⟨false, 812, 5⟩ ≠ 0 ∧ s.failing 7 ⟨false, 812, 5⟩ &&& ~~~ s.waitable 7 = 0 ∧ s.freshLamp 7 = false ∧ (s.act 7 .lamp).stage = .none ∧
     s.plugged 7 = true ∧ s.freshRead 7 = false ∧ s.blockingFault 7 = false ∧ (s.act 7 .fault).stage = .none ∧ (s.clearance 7).faultPlaced = false ∧
     s.chanEntry 7 .fault = none ∧ s.linkOf 7 .fault = none ∧ s.barred 7 .lamp = false ∧ s.admEntry 7 .lamp = none ∧ (s.claim 7).lamp = none ∧
     ((s.vetRound 7).clearance 7).lampPlaced = true ∧ ((s.vetRound 7).clearance 7).faultPlaced = true) := by decide +kernel

/-! #### Link and lamp procedures -/

theorem test_meets_AttemptTimes : let s := linked .fault .ident .sending .running
    ((s.link 3).holder = some (7, .fault) ∧ (s.link 3).exch = some ⟨.ident, 1, .sending, false, 0⟩ ∧ (s.act 7 .fault).stop ≠ .immediate) ∧
    ((linked .fault .ident (.waiting 9 []) .running).link 3).exch = some ⟨.ident, 1, .waiting 9 [], false, 0⟩ ∧
    ((linked .fault .ident (.busy 9) .running).link 3).exch = some ⟨.ident, 1, .busy 9, false, 0⟩ := by decide +kernel
theorem test_meets_AttemptTimes_third : let x : Exchange := ⟨.ident, 3, .waiting 9 [], false, 0⟩
    Awaits { linked .fault .ident (.waiting 9 []) .running with links := vset z.links 3 { holder := some (7, .fault), seq := 15, exch := some x } } 3 7 .fault x ∧
    3 ≤ x.attempt ∧ x.request ≠ .sleep ∧ ∀ g on, x.request ≠ .lamp g on :=
  ⟨⟨rfl, rfl, ⟨9, rfl⟩, rfl, rfl, rfl⟩, by decide, by decide, nofun⟩
/-- A BUSY reply to IDENT, and noise before it. -/
def busyReply : List Byte := replyFrame .ident 15 [1]

theorem test_meets_FramesDiscarded : (∀ x ∈ ([⟨0x12, false⟩, ⟨0x12, true⟩] : List LineByte), x.stop = false ∨ ([] : List Byte) = [] ∧ x.data ≠ 0xC3) ∧
    ([0xC3, 0, 0] : List Byte).length = 3 ∧ 24 < (25 : Byte).toNat ∧ (busyReply.length = 1 + 6 ∧ busyReply[0]? = some 0xC3 ∧ busyReply[3]? = some 1) ∧
    ((busyReply.take 6).length < 1 + 6 ∧ (busyReply.take 6)[3]? = some 1) ∧ (∃ y, parseReply .ident 15 busyReply = some y) ∧
    parseReply .ident 14 busyReply = none ∧ parseReply .wake 15 busyReply = none ∧
    (let s := linked .fault .ident (.waiting 9 []) .running
     (s.link 3).exch = some ⟨.ident, 1, .waiting 9 [], false, 0⟩ ∧ (s.link 3).seq = 15 ∧
     hunt .ident 15 [] (onLine (0x55 :: busyReply.take 5)) = .listening (busyReply.take 5) ∧
     hunt .ident 15 (busyReply.take 5) (onLine (busyReply.drop 5)) = .reply .busy ∧ hunt .ident 15 [] (onLine busyReply) = .reply .busy) ∧
    (∀ x, ((linked .fault .ident .sending .running).link 3).exch = some x → x.state = .sending) :=
  ⟨by decide +kernel, by decide, by decide, by decide +kernel, by decide +kernel, ⟨.busy, by decide +kernel⟩, by decide +kernel, by decide +kernel,
    by decide +kernel, fun x h => by cases h; rfl⟩
theorem test_meets_WakeExchanges : Awaits (linked .lamp .wake (.waiting 9 []) .running) 3 7 .lamp ⟨.wake, 1, .waiting 9 [], false, 0⟩ ∧
    parseReply .wake 15 (replyFrame .wake 15 [0]) = some .ok ∧ parseReply .wake 15 (replyFrame .wake 15 [3]) = some .starting ∧
    ((linked .lamp .wake (.waiting 9 []) .running).link 3).wakeTimer = some 300 ∧
    (let s := { linked .fault .wake (.waiting 9 []) .running with links := vset z.links 3 { holder := some (7, .fault), wakeTimer := some 300, pause := some 200 } }
     (s.link 3).pause = some 200 ∧ (s.link 3).wakeTimer = some 300 ∧ (s.link 3).holder = some (7, .fault)) :=
  ⟨⟨rfl, rfl, ⟨9, rfl⟩, rfl, rfl, rfl⟩, by decide +kernel, by decide +kernel, rfl, rfl, rfl, rfl⟩
theorem test_meets_ReadAndSleepReplies : (∀ a, Awaits (linked a .ident (.waiting 9 []) .running) 3 7 a ⟨.ident, 1, .waiting 9 [], false, 0⟩ ∧
      ((linked a .ident (.waiting 9 []) .running).act 7 a).previous = false) ∧
    parseReply .ident 15 (replyFrame .ident 15 [0, 3, 0x1D, 0x56, 7, 65]) = none ∧
    parseReply .ident 15 (replyFrame .ident 15 [0, 3, 0x1D, 0x56, 7, 64]) = some (.okIdent 204118 7 64) ∧
    (linked .fault .ident (.waiting 9 []) .running).identityMatches 7 204118 7 = true ∧
    (linked .fault .ident (.waiting 9 []) .running).identityMatches 7 204118 8 = false :=
  ⟨fun a => by cases a <;> exact ⟨⟨rfl, rfl, ⟨9, rfl⟩, rfl, rfl, rfl⟩, rfl⟩, by decide +kernel, by decide +kernel, by decide +kernel, by decide +kernel⟩

/-- A reply with one fault record, and whether more pages follow. -/
def page (n : Nat) (more : Byte) : List Byte := replyFrame (.faultPage n) 15 [0, more, 1, 0x12, 0x34, 2, 2, 1]

theorem test_meets_FaultPages : (∀ n, Awaits (linked .fault (.faultPage n) (.waiting 9 []) .running) 3 7 .fault ⟨.faultPage n, 1, .waiting 9 [], false, 0⟩) ∧
    parseReply (.faultPage 15) 15 (page 15 1) = some (.okPage true [⟨0x1234, 2, 2, 1⟩]) ∧
    parseReply (.faultPage 0) 15 (page 0 0) = some (.okPage false [⟨0x1234, 2, 2, 1⟩]) ∧
    (judgePage [⟨0x1234, 2, 2, 1⟩]).isSome = true ∧ judgePage [⟨0x1234, 9, 2, 1⟩] = none ∧ (0 : Nat) ≠ 15 ∧
    ((linked .fault (.faultPage 0) (.waiting 9 []) .running).act 7 .fault).variant = .read ∧
    ({ stage := .running, variant := .readErase } : ActRec).variant = .readErase :=
  ⟨fun _ => ⟨rfl, rfl, ⟨9, rfl⟩, rfl, rfl, rfl⟩, by decide +kernel, by decide +kernel, by decide +kernel, by decide +kernel, by decide, rfl, rfl⟩
/-- A table full of inactive ADVISE slots, seen or not. -/
def full (seen : Bool) : FaultTable := { slots := Vector.ofFn fun k => some ⟨k.val + 1, .advise, false, 1, none, seen⟩ }
/-- An attempt at SLEEP of a closing lamp check. -/
def sleeping (n : Nat) : State := { linked .lamp .sleep (.waiting 9 []) .closing with
  links := vset z.links 3 { holder := some (7, .lamp), seq := 15, exch := some ⟨.sleep, n, .waiting 9 [], false, 0⟩ },
  lampChs := vset z.lampChs 1 { holder := some 7 } }

theorem test_meets_ReadAndSleepReplies_rest : Awaits (linked .fault .eraseStored (.waiting 9 []) .running) 3 7 .fault
      ⟨.eraseStored, 1, .waiting 9 [], false, 0⟩ ∧
    parseReply .eraseStored 15 (replyFrame .eraseStored 15 [0]) = some .ok ∧ parseReply .eraseStored 15 (replyFrame .eraseStored 15 [2]) = some .refused ∧
    (∀ n ∈ [1, 3], (sleeping n).linkOf 7 .lamp = some 3 ∧ ((sleeping n).link 3).exch = some ⟨.sleep, n, .waiting 9 [], false, 0⟩ ∧
      ((sleeping n).act 7 .lamp).stage = .closing ∧ ((sleeping n).act 7 .lamp).stop = .none ∧ (sleeping n).lampChOf 7 = some 1) ∧
    parseReply .sleep 15 (replyFrame .sleep 15 [0]) = some .ok ∧ parseReply .sleep 15 (replyFrame .sleep 15 [2]) = some .refused ∧
    (∀ k, ∃ x, vget (full true).slots k = some x ∧ x.code ≠ 0x1234 ∧ x.rank < FaultRecord.rank ⟨0x1234, .info, false, 1⟩) ∧
    (∃ k, vget (full true).slots k ≠ vget ((full true).merge ⟨0x1234, .blocking, true, 1⟩ none).1.slots k) ∧
    ((full true).merge ⟨0x1234, .blocking, true, 1⟩ none).2 = true ∧ ((full false).merge ⟨0x1234, .blocking, true, 1⟩ none).2 = false ∧
    (∃ k, vget table1.slots k = none) ∧ (∃ k x, vget (full true).slots k = some x ∧ x.code = 3) := by
  have hv : ∀ b k, vget (full b).slots k = some ⟨k.val + 1, .advise, false, 1, none, b⟩ := by intro b k; simp [full, vget]
  refine ⟨⟨rfl, rfl, ⟨9, rfl⟩, rfl, rfl, rfl⟩, by decide +kernel, by decide +kernel, by decide +kernel, by decide +kernel, by decide +kernel,
    fun k => ⟨_, hv true k, ?_, ?_⟩, by decide +kernel, by decide +kernel, by decide +kernel, by decide +kernel, 2, _, hv true 2, rfl⟩
  · revert k; decide +kernel
  · revert k; decide +kernel

/-- The layout of the examples' class. -/
def layout : Layout := ⟨cls.present, cls.critical, cls.flashing, cls.expected⟩

/-- A lamp check of bay 7 in a window, at a group. -/
def lampIn (w : Window) (g : Group) (lit : Set8) : State := { linked .lamp .ident .sending .running with
  lampWork := vset z.lampWork 7 { step := some .groupOn, layout := some layout, group := some g, lit := some g, window := some (w, 40) },
  lampChs := vset z.lampChs 1 { holder := some 7, litNow := lit, settle := vset (Vector.replicate 8 none) 0 (some 30) } }

theorem test_meets_LampProcedure : Awaits (linked .lamp (.lamp 7 true) (.waiting 9 []) .running) 3 7 .lamp ⟨.lamp 7 true, 1, .waiting 9 [], false, 0⟩ ∧
    parseReply (.lamp 7 true) 15 (replyFrame (.lamp 7 true) 15 [0]) = some .ok ∧
    parseReply (.lamp 7 false) 15 (replyFrame (.lamp 7 false) 15 [2]) = some .refused ∧
    ((lampIn .baseline 0 0).lampWorkOf 7).window = some (.baseline, 40) ∧ (lampIn .baseline 0 0).litNow 7 = 0 ∧ (lampIn .baseline 0 1).litNow 7 ≠ 0 ∧
    layout.nextGroup 0 = some 0 ∧ (lampIn .baseline 0 0).linkOf 7 .lamp = some 3 ∧ ((lampIn .on 1 0).lampWorkOf 7).window = some (.on, 40) ∧
    ((lampIn .on 1 0).lampWorkOf 7).group = some 1 ∧ ((lampIn .on 1 0).lampWorkOf 7).layout = some layout ∧
    ((lampIn .off 1 0).lampWorkOf 7).window = some (.off, 40) ∧ layout.nextGroup (1 + 1) = some 7 ∧ layout.nextGroup (7 + 1) = none ∧
    (let s : State := { lampIn .baseline 0 0 with lampWork := vset z.lampWork 7 { layout := some { layout with present := 0, critical := 0 }, window := some (.baseline, 40) } }
     s.litNow 7 = 0 ∧ (s.lampWorkOf 7).layout.map (·.present) = some 0 ∧ (s.lampWorkOf 7).window = some (.baseline, 40) ∧ (s.act 7 .lamp).previous = false) :=
  ⟨⟨rfl, rfl, ⟨9, rfl⟩, rfl, rfl, rfl⟩, by decide +kernel⟩
theorem test_meets_SensorChanges : (lampIn .on 1 0).lampChOf 7 = some 1 ∧ ((lampIn .on 1 0).lampCh 1).holder = some 7 ∧
    vget ((lampIn .on 1 0).lampCh 1).settle 0 = some 30 ∧ (6 : Bay) ≠ 7 := by decide +kernel
theorem test_meets_ClearanceTimers : ((clrIn .preparing).clearance 7).prep = some 800 ∧ ((clrIn .preparing).clearance 7).request = some ⟨false, 812, 5⟩ ∧
    (clrIn .preparing).path.reload = none ∧ ((clrIn .cleared).clearance 7).lapse = .running 900 ∧ ((clrIn .departing).clearance 7).reverse = some 700 := by
  decide +kernel
theorem test_meets_RaisedEvents : z.path.reload = none ∧ z.ev.buffer.length < 16 ∧ 16 ≤ busy.ev.buffer.length ∧
    (reloading 0 true).path.reload.isSome = true := by decide +kernel
theorem test_meets_MergeKeepsActiveBlocking : record.active = true ∧ record.severity = .blocking ∧ vget table1.slots 0 = none ∧
    vget table1.slots 7 = some ⟨0x99, .blocking, true, 1, none, true⟩ ∧ 0x99 ≠ record.code ∧ Severity.advise ≠ .blocking := by decide +kernel

/-- A full table, the pointer at 6: slots 2 and 5 hold the lowest rank, inactive ADVISE. -/
def ranked (seen : Bool) : FaultTable :=
  { slots := Vector.ofFn fun k => some ⟨k.val + 1, if k = 2 ∨ k = 5 then .advise else .blocking, k != 2 && k != 5, 1, none, seen⟩, pointer := 6 }

theorem test_meets_MergeKeepsActiveBlocking_slot : (∀ k, ∃ x, vget (ranked true).slots k = some x ∧ x.code ≠ record.code) ∧
    vget (ranked false).slots ((ranked false).pointer + 4) = some ⟨3, .advise, false, 1, none, false⟩ ∧
    (∀ j : Fin 8, j < 4 → (vget (ranked false).slots ((ranked false).pointer + j)).map (·.rank) = some 1) ∧
    (∀ k, (vget (ranked false).slots k).all fun y => decide (y.rank ≤ 5)) ∧
    (ranked true).merge record none = ({ slots := vset (ranked true).slots 2 (some ⟨0x1234, .blocking, true, 1, none, true⟩), pointer := 3 }, true) ∧
    ((ranked true).merge ⟨0x1234, .info, false, 1⟩ none) = (ranked true, true) ∧
    (ranked false).merge ⟨0x1234, .advise, false, 1⟩ none =
      ({ slots := vset (ranked false).slots 2 (some ⟨0x1234, .advise, false, 1, none, true⟩), pointer := 3 }, false) ∧
    (vget table1.slots (table1.pointer + 0) = none ∧ ∀ k x, vget table1.slots k = some x → x.code ≠ record.code) := by
  have hv : ∀ b k, ∃ x, vget (ranked b).slots k = some x ∧ x.code = k.val + 1 := by intro b k; simp [ranked, vget]
  refine ⟨fun k => ?_, by decide +kernel, by decide +kernel, by decide +kernel, by decide +kernel, by decide +kernel, by decide +kernel,
    by decide +kernel, fun k x h => ?_⟩
  · obtain ⟨x, hx, hc⟩ := hv true k
    exact ⟨x, hx, by rw [hc, show record.code = 0x1234 from rfl]; omega⟩
  · rcases test_tables.1 k with rfl | hk
    · cases h; decide
    · rw [hk] at h; exact nomatch h

/-! #### What single commands answer on these states -/

/-- The kinds and details of the events a command raises. -/
def raised (c : Instr) (s : State) : List (Kind × BitVec 16) := (nextOf c s).ev.buffer.map fun e => (e.kind, e.detail)

theorem test_clear : ((nextOf (.clearanceClear 7 (wr 0x6A30919F)) (ready false)).clearance 7).state = .cleared ∧
    ((nextOf (.clearanceClear 7 (wr 0x6A30919F)) (ready false)).bay 7).proceed = true ∧
    raised (.clearanceClear 7 (wr 0x6A30919F)) (ready false) = [(.cleared, 0)] := by decide +kernel
theorem test_yardHold : ((nextOf .yardHoldActive (settlingTo (clrIn .cleared) true)).clearance 7).lapse = .paused 860 ∧
    raised .yardHoldActive (settlingTo (clrIn .cleared) true) = [(.holdOn, 0), (.suspended, 1)] := by decide +kernel
theorem test_weld : raised (.openLimitExpiry 7) (ctrIn .opening true false) = [(.contactorWeld, 3)] ∧
    (nextOf (.openLimitExpiry 7) (ctrIn .opening true false)).att.latches = 0x020 := by decide +kernel
theorem test_plan_new : ((nextOf (.planCommit 7 (wr 0x6A203D86)) staged).bay 7).assignment = .assigned ∧
    ((nextOf (.planCommit 7 (wr 0x6A203D86)) staged).session 7).state = .booked := by decide +kernel
theorem test_order_refused : raised (.faultRead 7 (wr 0x205)) z = [(.orderRefused, 0x0002)] := by decide +kernel
theorem test_fault_page : ((nextOf (.faultPageReply 3 (page 0 0)) (linked .fault (.faultPage 0) (.waiting 9 []) .running)).table 7).slots.toList.head? =
    some (some ⟨0x1234, .advise, false, 1, none, true⟩) := by decide +kernel
theorem test_lamp_judged : ((nextOf (.offWindowExpiry 7) (lampIn .off 7 0)).lampResult 7).judged = some .pass := by decide +kernel

end Sys2Proof.Tests
end

