-- ==== Sys2Proof/Proofs/Vetting.lean ====
section
/-! What a vetting reads, condition by condition in the terms of R185, and the bits of the waitable set; then O38. -/

namespace Sys2Proof.Machine

open Sys2Proof.Config Sys2Proof.Safety

variable {s : State} {b : Bay} {q : ClrRequest}

/-! ### Each condition of R185 in the spec's terms -/

theorem isAssigned_iff : s.isAssigned b = true ↔ (s.bay b).assignment = .assigned := beq_iff_eq

/-- RUN_MISMATCH compares the request's run with the plan copy's. -/
theorem runMismatch_iff {p : PlanRow} (hp : (s.bay b).plan = some p) :
    (s.isAssigned b && q.run != s.planRun b) = true ↔ (s.bay b).assignment = .assigned ∧ q.run ≠ p.run := by
  simp [State.planRun, hp, isAssigned_iff]

/-- With a plan copy and its class row at hand, the coach seen is the planned one if both its fields agree. -/
theorem identityMet_iff {p : PlanRow} {c : ClassRow} (hp : (s.bay b).plan = some p) (hc : vget s.classes p.classIx = some c) :
    s.identityMet b = true ↔ ∃ y, (s.bay b).seen = some y ∧ y.id = p.coachId ∧ y.code = c.code := by
  have hcl : s.classOf b = some c := by simp [State.classOf, hp, hc]
  unfold State.identityMet State.identityMatches
  cases (s.bay b).seen with
  | none => simp
  | some y => simp [hp, hcl, eq_comm (a := p.coachId), eq_comm (a := c.code)]

theorem identityFails_iff {p : PlanRow} {c : ClassRow} (hp : (s.bay b).plan = some p) (hc : vget s.classes p.classIx = some c) :
    (s.isAssigned b && !s.identityMet b) = true ↔
      (s.bay b).assignment = .assigned ∧ ∀ y, (s.bay b).seen = some y → y.id ≠ p.coachId ∨ y.code ≠ c.code := by
  rw [Bool.and_eq_true, isAssigned_iff, Bool.not_eq_true', ← Bool.not_eq_true, identityMet_iff hp hc]
  simp only [not_exists, not_and, ← Decidable.imp_iff_not_or, ne_eq]

theorem freshLamp_iff : s.freshLamp b = true ↔ Fresh s (s.lampResult b).judgeTime s.settings.lampFresh := isFresh_iff _ _

theorem freshRead_iff : s.freshRead b = true ↔ Fresh s (s.summary b).completeTime s.settings.faultFresh := isFresh_iff _ _

theorem lampFails_iff : s.lampFails b = true ↔
    ¬ Fresh s (s.lampResult b).judgeTime s.settings.lampFresh ∨ (s.lampResult b).judged = some .fail := by
  simp [State.lampFails, ← freshLamp_iff]

theorem faultFails_iff : s.faultFails b = true ↔
    ¬ Fresh s (s.summary b).completeTime s.settings.faultFresh ∨ HoldsBlocking s b := by
  simp [State.faultFails, ← freshRead_iff, ← blockingFault_iff]

theorem heatFails_iff : s.heatFails b q.waiver = true ↔
    (s.session b).state ≠ .none ∧ (s.session b).state ≠ .complete ∧ q.waiver = false := by
  simp only [State.heatFails, Bool.and_eq_true, Bool.not_eq_true', bne_iff_ne]
  exact ⟨fun ⟨⟨hw, hn⟩, hc⟩ => ⟨hn, hc, hw⟩, fun ⟨hn, hc, hw⟩ => ⟨⟨hw, hn⟩, hc⟩⟩

theorem holdsAny_iff : s.holdsAny b = true ↔ (s.claim b).standing ≠ none ∨ (s.claim b).heat ≠ none ∨ (s.claim b).lamp ≠ none := by
  simp [State.holdsAny, ClaimRec.noIncrement, Option.isSome_iff_ne_none]

theorem contactorFails_iff : s.contactorFails b = true ↔
    (s.ctr b).state ≠ .open ∨ (s.claim b).standing ≠ none ∨ (s.claim b).heat ≠ none ∨ (s.claim b).lamp ≠ none := by
  rw [State.contactorFails, Bool.or_eq_true, bne_iff_ne, holdsAny_iff]

theorem checkUnderWay_iff : s.checkUnderWay b = true ↔ (s.act b .lamp).stage ≠ .none ∨ (s.act b .fault).stage ≠ .none := by
  simp [State.checkUnderWay]

/-- IDENTITY may be met by waiting if a check has not ended, or if LAMP or FAULT fails in a way that waiting can meet: the check placed for it reads
the coach again. -/
theorem identityWaitable_iff : s.identityWaitable b = true ↔ (s.act b .lamp).stage ≠ .none ∨ (s.act b .fault).stage ≠ .none ∨
    s.lampFails b = true ∧ (!s.freshLamp b) = true ∨ s.faultFails b = true ∧ (!s.blockingFault b) = true := by
  rw [State.identityWaitable, Bool.or_eq_true, Bool.or_eq_true, checkUnderWay_iff, State.lampFails, State.faultFails]
  cases s.freshLamp b <;> cases s.blockingFault b <;> simp [or_assoc]

/-! ### The bits of the two sets -/

/-- A list of conditions has no condition past its end. -/
theorem getD_of_length_le {l : List Bool} {i : Nat} (h : l.length ≤ i) : l.getD i false = false := by
  rw [List.getD_eq_getElem?_getD, List.getElem?_eq_none h, Option.getD_none]

/-- Past the eleven conditions the failing set is empty. -/
theorem failing_getLsbD_of_ge {i : Nat} (h : 11 ≤ i) : (s.failing b q).getLsbD i = false := by
  by_cases hi : i < 15
  · rw [failing_getLsbD i hi]
    exact getD_of_length_le h
  · exact BitVec.getLsbD_of_ge _ _ (by omega)

/-- Which conditions waiting can meet, in the order of R185, a bit each; none after CONTACTOR. -/
def waitConditions (s : State) (b : Bay) : List Bool :=
  [false, false, false, s.identityWaitable b, !s.freshLamp b, !s.blockingFault b, false, true, (s.ctr b).state != .welded]

/-- Each waitable condition has its own bit of the waitable set. -/
theorem waitable_getLsbD {i : Nat} (h : i < 15) : (s.waitable b).getLsbD i = (waitConditions s b).getD i false := by
  unfold State.waitable waitConditions
  simp only [BitVec.getLsbD_or, reasonIf_getLsbD]
  obtain rfl | rfl | rfl | rfl | rfl | rfl | rfl | rfl | rfl | rfl | rfl | rfl | rfl | rfl | rfl : i = 0 ∨ i = 1 ∨ i = 2 ∨ i = 3 ∨ i = 4 ∨
      i = 5 ∨ i = 6 ∨ i = 7 ∨ i = 8 ∨ i = 9 ∨ i = 10 ∨ i = 11 ∨ i = 12 ∨ i = 13 ∨ i = 14 := by omega
  all_goals simp [rIdentity, rLamp, rFault, rPlug, rContactor]

/-- Waiting meets no condition but IDENTITY, LAMP, FAULT, PLUG and CONTACTOR. -/
theorem waitable_getLsbD_of_ne {i : Nat} (h3 : i ≠ 3) (h4 : i ≠ 4) (h5 : i ≠ 5) (h7 : i ≠ 7) (h8 : i ≠ 8) :
    (s.waitable b).getLsbD i = false := by
  by_cases hi : i < 15
  · rw [waitable_getLsbD hi]
    by_cases h9 : 9 ≤ i
    · exact getD_of_length_le h9
    · obtain rfl | rfl | rfl | rfl : i = 0 ∨ i = 1 ∨ i = 2 ∨ i = 6 := by omega
      all_goals rfl
  · exact BitVec.getLsbD_of_ge _ _ (by omega)

/-- Settles O38: each bit of the failing and of the waitable set is one condition of R185, and each condition is its row of the table. -/
theorem vettingConditions : Obligations.VettingConditions := by
  intro s b q
  have fails (i : Nat) (h : i < 15) := failing_getLsbD (s := s) (b := b) (q := q) i h
  have waits {i : Nat} (h : i < 15) := waitable_getLsbD (s := s) (b := b) h
  have lamp : (s.failing b q).getLsbD 4 = s.lampFails b := fails 4 (by decide)
  have fault : (s.failing b q).getLsbD 5 = s.faultFails b := fails 5 (by decide)
  have lampWaits : (s.waitable b).getLsbD 4 = !s.freshLamp b := waits (by decide)
  have faultWaits : (s.waitable b).getLsbD 5 = !s.blockingFault b := waits (by decide)
  refine ⟨?noPlan, fun p hp => ?runMismatch, ?notPresent, fun p c hp hc => ?identity, ?lamp, ?fault, ?heat, ?plug, ?contactor, ?silent, ?hold,
    fun i hi => failing_getLsbD_of_ge hi, ?identityWaits, ?lampWaits, ?faultWaits, waits (by decide), ?contactorWaits,
    fun i h3 h4 h5 h7 h8 => waitable_getLsbD_of_ne h3 h4 h5 h7 h8⟩
  case noPlan => rw [fails 0 (by decide), ne_eq, ← isAssigned_iff]; simp [conditions]
  case runMismatch => rw [fails 1 (by decide)]; exact runMismatch_iff hp
  case notPresent => rw [fails 2 (by decide)]; exact iff_of_eq (Bool.not_eq_true' _)
  case identity => rw [fails 3 (by decide)]; exact identityFails_iff hp hc
  case lamp => rw [lamp]; exact lampFails_iff
  case fault => rw [fault]; exact faultFails_iff
  case heat => rw [fails 6 (by decide)]; exact heatFails_iff
  case plug => rw [fails 7 (by decide)]; exact Iff.rfl
  case contactor => rw [fails 8 (by decide)]; exact contactorFails_iff
  case silent => rw [fails 9 (by decide)]; exact bne_iff_ne
  case hold => rw [fails 10 (by decide)]; exact Iff.rfl
  case identityWaits => rw [lamp, fault, lampWaits, faultWaits, waits (by decide)]; exact identityWaitable_iff
  case lampWaits => rw [lampWaits, Bool.not_eq_true', ← Bool.not_eq_true, freshLamp_iff]
  case faultWaits => rw [faultWaits, Bool.not_eq_true', ← Bool.not_eq_true, blockingFault_iff]
  case contactorWaits => rw [waits (by decide)]; exact bne_iff_ne

end Sys2Proof.Machine
end

