-- ==== Sys2Proof/Proofs/Step.lean ====
section
/-! The step by the state of the queue; then O1. -/

namespace Sys2Proof.Machine

theorem step_of_cons {c : Instr} {rest : List Instr} {s : State} (h : s.pending = c :: rest) :
    step s = exec c { s with pending := rest } := by
  unfold step; rw [h]

theorem step_of_nil {s : State} (h : s.pending = []) : step s = .next (tick s) := by
  unfold step; rw [h]

/-- Settles O1: the two equations of the step, for a queue with a front command and for an empty one. -/
theorem stepRunsFrontCommand : Obligations.StepRunsFrontCommand :=
  ⟨fun _ _ _ h => step_of_cons h, fun _ h => step_of_nil h⟩

end Sys2Proof.Machine
end

