-- ==== Sys2Proof/Proofs/TimeFrame.lean ====
section
/-! What a command leaves of time, clock, lines, heads, supervision and consumer index: the relations `Onward` (all but the lines) and `Calm` (the
lines too), each act's lemma, and the frame of every command by its group; then O11. -/

namespace Sys2Proof.Machine

open Sys2Proof.Safety Sys2Proof.Config

/-- Time does not run backward from `r` to `s`, and the sensing heads stay. -/
structure Later (r s : State) : Prop where
  time : r.timeBase ≤ s.timeBase
  heads : s.heads = r.heads

/-- `Later`, and clock, horizon, supervision and consumer index stay. -/
structure Onward (r s : State) : Prop extends Later r s where
  clock : s.clock = r.clock
  horizon : s.horizon = r.horizon
  hb : s.hb = r.hb
  consumer : s.ev.consumer = r.ev.consumer

/-- `Onward`, and the sensed lines and the yard hold stay too. -/
structure Calm (r s : State) : Prop extends Onward r s where
  lines : s.lines = r.lines
  hold : s.hold = r.hold

theorem Later.trans {q r s : State} (h : Later q r) (k : Later r s) : Later q s := ⟨Nat.le_trans h.time k.time, k.heads.trans h.heads⟩

namespace Onward

variable {r s : State}

theorem refl (s : State) : Onward s s := ⟨⟨Nat.le_refl _, rfl⟩, rfl, rfl, rfl, rfl⟩

theorem trans {q : State} (h : Onward q r) (k : Onward r s) : Onward q s :=
  ⟨h.toLater.trans k.toLater, k.clock.trans h.clock, k.horizon.trans h.horizon, k.hb.trans h.hb, k.consumer.trans h.consumer⟩

end Onward

namespace Calm

variable {r s : State}

theorem refl (s : State) : Calm s s := ⟨.refl s, rfl, rfl⟩

theorem trans {q : State} (h : Calm q r) (k : Calm r s) : Calm q s :=
  ⟨h.toOnward.trans k.toOnward, k.lines.trans h.lines, k.hold.trans h.hold⟩

/-- Acts of the blocks touch none of it. -/
theorem of_mild (h : Mild r s) : Calm r s := by
  have ho := h.outer
  exact ⟨⟨⟨Nat.le_of_eq (congrArg Outer.timeBase ho).symm, congrArg Outer.heads ho⟩, congrArg Outer.clock ho, congrArg Outer.horizon ho,
    congrArg Outer.hb ho, congrArg Outer.consumer ho⟩, congrArg Outer.lines ho, congrArg Outer.hold ho⟩

theorem inner {q : State} (h : Calm q r) (k : Inner r s) : Calm q s := h.trans (of_mild k.mild)

theorem advanceTo (h : Calm r s) {t : Nat} : Calm r (s.advanceTo t) := h.trans ⟨⟨⟨Nat.le_max_left _ _, rfl⟩, rfl, rfl, rfl, rfl⟩, rfl, rfl⟩

/-! ### The memory path -/

/-- Memory, path and engine are no part of it. -/
theorem setPath (h : Calm r s) {m : Memory} {p : Path} {e : PostEngine} : Calm r { s with mem := m, path := p, post := e } :=
  h.trans ⟨⟨⟨Nat.le_refl _, rfl⟩, rfl, rfl, rfl, rfl⟩, rfl, rfl⟩

theorem raise (h : Calm r s) {k : Kind} {b : Option Bay} {d q : Nat} : Calm r (s.raise k b d q) := h.inner (Inner.refl s).raise

theorem answer (h : Calm r s) {p : Port} : Calm r (s.answer p) := h.setPath

theorem freeEntry (h : Calm r s) {w : BitVec 24} : Calm r (s.freeEntry w) := h.setPath

theorem beginTxn (h : Calm r s) : Calm r s.beginTxn := by
  unfold State.beginTxn
  split
  · exact h
  · exact h.setPath

theorem txnDone (h : Calm r s) {x : Bool} : Calm r (s.txnDone x) := beginTxn h.setPath

theorem snapshot (h : Calm r s) {w : BitVec 24} : Calm r (s.snapshot w) := by
  unfold State.snapshot
  split
  · split
    · exact h.setPath
    · exact h.setPath
    · exact h
  · exact h

theorem answerRead (h : Calm r s) {w : BitVec 24} {d : Word} {p : BitVec 4} : Calm r (s.answerRead w d p) := h.snapshot.answer

theorem repeatRead (h : Calm r s) {e : DEntry} : Calm r (s.repeatRead e) := by
  unfold State.repeatRead
  split
  · exact h.freeEntry.answerRead
  · dsimp only
    split
    · exact h.freeEntry.raise.answer
    · exact h.setPath.answer

theorem freshMemoryRead (h : Calm r s) {w : BitVec 24} : Calm r (s.freshMemoryRead w) := by
  unfold State.freshMemoryRead
  split
  · split
    · exact h.setPath.answer
    · exact h.answer
  · exact h.answer

theorem memoryRead (h : Calm r s) {w : BitVec 24} : Calm r (s.memoryRead w) := by
  unfold State.memoryRead
  split
  · exact h.repeatRead
  · exact h.freshMemoryRead

theorem regionRead (h : Calm r s) {w : BitVec 24} : Calm r (s.regionRead w) := by
  unfold State.regionRead
  split
  · exact h.answer
  · exact h.answer
  all_goals exact h.memoryRead

/-- A Processor Port read (R13). -/
theorem processorReads (h : Calm r s) {a : BitVec 26} : Calm r (s.processorReads a) := by
  unfold State.processorReads
  dsimp only
  split
  · exact h
  · refine beginTxn ?_
    split
    · exact h.memoryRead
    · split
      · exact h.answer
      · exact h.regionRead

theorem throughDone (h : Calm r s) : Calm r s.throughDone := by
  unfold State.throughDone
  split
  · split
    · exact h.answerRead.txnDone
    · exact h
  all_goals exact h

theorem fillDone (h : Calm r s) : Calm r s.fillDone := by
  unfold State.fillDone
  split
  · refine txnDone ?_
    split
    · exact h
    · exact h.setPath
  · exact h

theorem drainHead (h : Calm r s) : Calm r s.drainHead := by
  unfold State.drainHead
  split
  · exact h.setPath
  · exact h

theorem drainDone (h : Calm r s) : Calm r s.drainDone := by
  unfold State.drainDone
  split
  · exact h.drainHead.txnDone
  · exact h

/-- A discard timer's expiry moves time to its deadline (R17, log 2). -/
theorem discard (h : Calm r s) {w : BitVec 24} : Calm r (s.discard w) := by
  unfold State.discard
  split
  · split
    · exact h.advanceTo.freeEntry.raise.beginTxn
    · exact h
  · exact h

/-- A snapshot limit's expiry moves time to its deadline (R22, log 2). -/
theorem snapshotOver (h : Calm r s) {b : Bay} : Calm r (s.snapshotOver b) := by
  unfold State.snapshotOver
  split
  · exact h.advanceTo.setPath
  · exact h

/-! ### Postings -/

theorem select (h : Calm r s) : Calm r s.select := by
  unfold State.select
  split
  · exact h
  · split
    · exact h.setPath
    · exact h

theorem grantPort (h : Calm r s) : Calm r s.grantPort := by
  unfold State.grantPort
  split
  · split
    · exact h.setPath
    · exact h
  · exact h

theorem burstWords (h : Calm r s) {o : Nat} {ws : List Word} : Calm r (s.burstWords o ws) := by
  induction ws generalizing s o with
  | nil => exact h
  | cons w ws ih => exact ih h.setPath

theorem burstTo (h : Calm r s) {n : Nat} : Calm r (s.burstTo n) := by
  unfold State.burstTo
  split
  · exact h.burstWords.setPath
  · exact h
  · exact h

/-- A posting's completion moves the producer index, not the consumer index (R204). -/
theorem posted (h : Calm r s) {t : Target} : Calm r (s.posted t) := by
  cases t with
  | row p => exact h.setPath
  | event => exact h.trans ⟨⟨⟨Nat.le_refl _, rfl⟩, rfl, rfl, rfl, rfl⟩, rfl, rfl⟩

theorem burstDone (h : Calm r s) : Calm r s.burstDone := by
  unfold State.burstDone
  split
  · exact h.burstTo.posted.beginTxn
  · exact h
  · exact h

/-! ### The channels -/

theorem reserve (h : Calm r s) : Calm r s.reserve := by
  unfold State.reserve
  split
  · exact h.inner (Inner.refl s).setReserve
  · exact h

theorem replyTimeout (h : Calm r s) {ch : LinkIx} : Calm r (s.replyTimeout ch) := by
  unfold State.replyTimeout
  split
  · exact h.advanceTo.inner (Inner.refl _).replyExpired
  · exact h

theorem sensorSettled (h : Calm r s) {lc : LampIx} {k : Sensor} : Calm r (s.sensorSettled lc k) := by
  unfold State.sensorSettled
  split
  · exact h.advanceTo.inner (Inner.refl _).sensorTaken
  · exact h

end Calm

/-! ### The lines, the end steps and the minute -/

namespace Onward

variable {r s : State}

theorem calm {q : State} (h : Onward q r) (k : Calm r s) : Onward q s := h.trans k.toOnward

theorem inner {q : State} (h : Onward q r) (k : Inner r s) : Onward q s := h.calm (.of_mild k.mild)

theorem setLines (h : Onward r s) {b : Bay} {l : BayLines} : Onward r (s.setLines b l) :=
  h.trans ⟨⟨by simp, by simp⟩, by simp, by simp, by simp, by simp⟩

theorem setHold (h : Onward r s) {l : LineState} : Onward r { s with hold := l } := h.trans ⟨⟨Nat.le_refl _, rfl⟩, rfl, rfl, rfl, rfl⟩

theorem pinChange (h : Onward r s) {ln : Line} {lv : Bool} : Onward r (s.pinChange ln lv) := by
  cases ln with
  | presence b => exact h.setLines
  | plug b => exact h.setLines
  | loop b => exact h.setLines
  | feedback b => exact h.setLines
  | hold => exact h.setHold

theorem startBay (h : Onward r s) {b : Bay} : Onward r (s.startBay b) := by
  unfold State.startBay
  exact (h.setLines.calm (.of_mild (Mild.refl _).setCtr)).inner (Inner.refl _).startTest

/-- The end steps sample the lines and go on from there (R31, R90). -/
theorem endSteps (h : Onward r s) : Onward r s.endSteps := by
  have hb : Onward r (s.takeHold.eachBay State.startBay) := List.foldlRecOn _ _ h.setHold fun _ hu _ _ => hu.startBay
  exact hb.calm (Calm.refl _).setPath

end Onward

/-- A minute event brings nothing but the horizon into use, and then the blocks act (R57, R65; log 18). -/
theorem minuteEvent_inner (s : State) : Inner s.rosterInUse s.minuteEvent ∨ s.minuteEvent = s := by
  cases hr : s.path.reload with
  | none => exact .inl (Inner.minuteEvent hr)
  | some x => exact .inr (if_pos (by simp [hr]))

/-! ### The reload -/

namespace Moved

variable {r s : State}

theorem reloadCommit (h : Moved r s) {x w : Word} {a : Area} : Moved r (s.reloadCommit x w a) := by
  unfold State.reloadCommit
  split
  · exact h.handed (Handed.refl s).commitSettings
  · exact h.handed (Handed.refl s).commitClass
  · exact h.handed (Handed.refl s).commitPlan
  · exact h.handed (Handed.refl s).setOrderSeqs
  · unfold State.reloadRequest
    split
    · exact h.setClearanceCopies.inner ((Inner.refl _).setClearance rfl)
    · exact h
  all_goals exact h

theorem reloadWord (h : Moved r s) {x : Reload} {w : Word} {p : BitVec 4} : Moved r (s.reloadWord x w p) := by
  unfold State.reloadWord
  dsimp only
  split
  · exact h.stage.reloadCommit
  · exact h.stage

theorem later (h : Moved r s) : Later r s := ⟨Nat.le_of_eq (congrArg Still.timeBase h.stays).symm, congrArg Still.heads h.stays⟩

end Moved

/-- A read of the reload commits records, and the last one runs the end steps. -/
theorem Later.reloadDone (s : State) : Later s s.reloadDone := by
  unfold State.reloadDone
  split
  · dsimp only
    split
    · split
      · exact (Moved.refl s).reloadWord.later.trans (Calm.refl _).setPath.txnDone.toOnward.endSteps.toLater
      · exact (Moved.refl s).reloadWord.later.trans (Calm.refl _).setPath.txnDone.toLater
    · exact (Onward.refl s).toLater
  · exact (Onward.refl s).toLater

/-! ### The frame of a command -/

/-- What the command `c` may change of time, clock, lines, heads, supervision and consumer index on the way from `s` to `t`. -/
structure TimeFrame (c : Instr) (s t : State) : Prop where
  lines : isReset c = false → isLine c = false → t.lines = s.lines ∧ t.hold = s.hold
  heads : (∀ b k l, c ≠ .sensorLevelChange b k l) → t.heads = s.heads
  consumer : isReset c = false → isWrite c = false → t.ev.consumer = s.ev.consumer
  hb : isReset c = false → isWrite c = false → c ≠ .heartbeatTimerExpiry → t.hb = s.hb
  clock : isReset c = false → isWrite c = false → c ≠ .secondAdvance → t.clock = s.clock ∧ t.horizon = s.horizon
  time : (∀ r, c ≠ .powerOn r) → s.timeBase ≤ t.timeBase

namespace TimeFrame

variable {c : Instr} {s t : State}

theorem of_calm (h : Calm s t) : TimeFrame c s t :=
  ⟨fun _ _ => ⟨h.lines, h.hold⟩, fun _ => h.heads, fun _ _ => h.consumer, fun _ _ _ => h.hb, fun _ _ _ => ⟨h.clock, h.horizon⟩,
    fun _ => h.time⟩

theorem of_inner (h : Inner s t) : TimeFrame c s t := of_calm (.of_mild h.mild)

/-- A change at a pin or the taking of one is free to change the lines. -/
theorem of_line (hc : isLine c = true) (h : Onward s t) : TimeFrame c s t :=
  ⟨fun _ hn => by simp [hc] at hn, fun _ => h.heads, fun _ _ => h.consumer, fun _ _ _ => h.hb, fun _ _ _ => ⟨h.clock, h.horizon⟩,
    fun _ => h.time⟩

/-- A write may hand on to the clock, the index and supervision, not to the lines and heads. -/
theorem of_write (hc : isWrite c = true) (h : Moved s t) : TimeFrame c s t :=
  ⟨fun _ _ => ⟨congrArg Still.lines h.stays, congrArg Still.hold h.stays⟩, fun _ => h.later.heads, fun _ hn => by simp [hc] at hn,
    fun _ hn => by simp [hc] at hn, fun _ hn => by simp [hc] at hn, fun _ => h.later.time⟩

/-- A reset leaves the heads, and all but POWER_ON leave time. -/
theorem of_reset (hc : isReset c = true) (hh : t.heads = s.heads) (ht : (∀ r, c ≠ .powerOn r) → s.timeBase ≤ t.timeBase) :
    TimeFrame c s t :=
  ⟨fun hn => by simp [hc] at hn, fun _ => hh, fun hn => by simp [hc] at hn, fun hn => by simp [hc] at hn, fun hn => by simp [hc] at hn, ht⟩

theorem trans {u : State} (h : TimeFrame c s t) (k : TimeFrame c t u) : TimeFrame c s u where
  lines hr hl := ⟨(k.lines hr hl).1.trans (h.lines hr hl).1, (k.lines hr hl).2.trans (h.lines hr hl).2⟩
  heads hc := (k.heads hc).trans (h.heads hc)
  consumer hr hw := (k.consumer hr hw).trans (h.consumer hr hw)
  hb hr hw hc := (k.hb hr hw hc).trans (h.hb hr hw hc)
  clock hr hw hc := ⟨(k.clock hr hw hc).1.trans (h.clock hr hw hc).1, (k.clock hr hw hc).2.trans (h.clock hr hw hc).2⟩
  time hc := Nat.le_trans (h.time hc) (k.time hc)

/-- Acts of the blocks after it leave the frame, and so do the examinations and vettings of `settle` (log 15). -/
theorem inner {u : State} (h : TimeFrame c s t) (k : Inner t u) : TimeFrame c s u := h.trans (of_inner k)

/-- An expiry moves time to the deadline first (log 2). -/
theorem expire {x : Timer} {f : State → State} (hf : ∀ u, TimeFrame c u (f u)) : TimeFrame c s (s.expire x f) := by
  unfold State.expire
  split
  · exact (of_calm (Calm.refl s).advanceTo).trans (hf _)
  · exact of_calm (.refl s)

/-- A level change at a sensor moves the heads alone, and then the lamp channel (R171). -/
theorem sensorPin {b : Bay} {k : Sensor} {l : Bool} : TimeFrame (.sensorLevelChange b k l) s (s.sensorPin b k l) := by
  have hh {x : Bays Set8} : TimeFrame (.sensorLevelChange b k l) s { s with heads := x } :=
    ⟨fun _ _ => ⟨rfl, rfl⟩, fun hn => absurd rfl (hn b k l), fun _ _ => rfl, fun _ _ _ => rfl, fun _ _ _ => ⟨rfl, rfl⟩, fun _ => Nat.le_refl _⟩
  unfold State.sensorPin
  dsimp only
  split
  · exact hh.inner (Inner.refl _).setLampCh
  · exact hh

/-- The heartbeat timer's expiry moves supervision alone (R211). -/
theorem heartbeatLost : TimeFrame .heartbeatTimerExpiry s s.heartbeatLost := by
  have hh {x : Heartbeat} : TimeFrame .heartbeatTimerExpiry s { s with hb := x } :=
    ⟨fun _ _ => ⟨rfl, rfl⟩, fun _ => rfl, fun _ _ => rfl, fun _ _ hn => absurd rfl hn, fun _ _ _ => ⟨rfl, rfl⟩, fun _ => Nat.le_refl _⟩
  exact hh.inner (Inner.refl _).raise.askVetAll

/-- A second moves the clock, and at a full minute the horizon, alone (R55, R57). -/
theorem secondPasses : TimeFrame .secondAdvance s s.secondPasses := by
  have hc {x : Clock} {n t : Nat} {y : Bays BayRec} :
      TimeFrame .secondAdvance s { s.advanceTo t with clock := x, horizon := n, bays := y } :=
    ⟨fun _ _ => ⟨rfl, rfl⟩, fun _ => rfl, fun _ _ => rfl, fun _ _ _ => rfl, fun _ _ hn => absurd rfl hn, fun _ => Nat.le_max_left _ _⟩
  unfold State.secondPasses
  dsimp only
  split
  · rcases minuteEvent_inner { s.advanceTo (s.clock.phaseFrom + second) with
      clock := { s.clock.nextSecond with phaseFrom := s.clock.phaseFrom + second } } with h | h
    · exact hc.inner h
    · rw [h]; exact hc
  · exact hc

end TimeFrame

/-- Every write is its word arriving at an address of the Processor Port (R1; log 23). -/
theorem exec_write {c : Instr} (hc : isWrite c = true) (s : State) : ∃ a w, exec c s = done (s.processorWrites a w) := by
  cases c <;> cases hc <;> exact ⟨_, _, rfl⟩

/-- The state `d` that a command itself leaves, before `settle` (log 15), is within the command's frame. -/
theorem exec_timeFrame (c : Instr) (s : State) : ∃ d, exec c s = done d ∧ TimeFrame c s d := by
  by_cases hw : isWrite c = true
  · obtain ⟨a, w, h⟩ := exec_write hw s
    exact ⟨_, h, .of_write hw (Moved.refl s).processorWrites⟩
  cases c with
  | powerOn r =>
    exact ⟨_, rfl, .of_reset rfl (Onward.refl (s.cleared r)).endSteps.heads fun hn => absurd rfl (hn r)⟩
  | resetLine r => exact ⟨_, rfl, .of_reset rfl rfl fun _ => Nat.le_refl _⟩
  | reloadReadComplete => exact ⟨_, rfl, .of_reset rfl (Later.reloadDone s).heads fun _ => (Later.reloadDone s).time⟩
  | processorRead a n => exact ⟨_, rfl, .of_calm (Calm.refl s).burstTo.processorReads⟩
  | throughReadComplete => exact ⟨_, rfl, .of_calm (Calm.refl s).throughDone⟩
  | fillReadComplete => exact ⟨_, rfl, .of_calm (Calm.refl s).fillDone⟩
  | queueDrainComplete => exact ⟨_, rfl, .of_calm (Calm.refl s).drainDone⟩
  | discardTimerExpiry w => exact ⟨_, rfl, .of_calm (Calm.refl s).discard⟩
  | snapshotLimitExpiry b => exact ⟨_, rfl, .of_calm (Calm.refl s).snapshotOver⟩
  | postingSelect => exact ⟨_, rfl, .of_calm (Calm.refl s).select⟩
  | postingGrant => exact ⟨_, rfl, .of_calm (Calm.refl s).grantPort⟩
  | postingBurstComplete => exact ⟨_, rfl, .of_calm (Calm.refl s).burstDone⟩
  | replyTimerExpiry ch => exact ⟨_, rfl, .of_calm (Calm.refl s).replyTimeout⟩
  | sensorChangeTaken lc k => exact ⟨_, rfl, .of_calm (Calm.refl s).sensorSettled⟩
  | reservationTimerExpiry => exact ⟨_, rfl, .expire fun u => .of_calm (Calm.refl u).reserve⟩
  | secondAdvance =>
    refine ⟨_, rfl, ?_⟩
    split
    · exact .secondPasses
    · exact .of_calm (.refl s)
  | heartbeatTimerExpiry => exact ⟨_, rfl, .expire fun _ => .heartbeatLost⟩
  | sensorLevelChange b k l => exact ⟨_, rfl, .sensorPin⟩
  | lineLevelChange ln lv => exact ⟨_, rfl, .of_line rfl (Onward.refl s).pinChange⟩
  | presenceOccupied b => exact ⟨_, rfl, .expire fun u => .of_line rfl ((Onward.refl u).setLines.inner .presenceOn)⟩
  | presenceEmpty b => exact ⟨_, rfl, .expire fun u => .of_line rfl ((Onward.refl u).setLines.inner .presenceOff)⟩
  | plugOut b => exact ⟨_, rfl, .expire fun u => .of_line rfl ((Onward.refl u).setLines.inner .plugOff)⟩
  | plugIn b => exact ⟨_, rfl, .expire fun u => .of_line rfl ((Onward.refl u).setLines.inner .plugOn)⟩
  | exitLoopOccupied b => exact ⟨_, rfl, .expire fun u => .of_line rfl ((Onward.refl u).setLines.inner .loopOn)⟩
  | exitLoopFree b => exact ⟨_, rfl, .expire fun u => .of_line rfl ((Onward.refl u).setLines.inner .loopOff)⟩
  | feedbackClosed b => exact ⟨_, rfl, .expire fun u => .of_line rfl ((Onward.refl u).setLines.inner .feedbackOn)⟩
  | feedbackOpen b => exact ⟨_, rfl, .expire fun u => .of_line rfl ((Onward.refl u).setLines.inner .feedbackOff)⟩
  | yardHoldActive => exact ⟨_, rfl, .expire fun u => .of_line rfl ((Onward.refl u).setHold.inner .holdOn)⟩
  | yardHoldInactive => exact ⟨_, rfl, .expire fun u => .of_line rfl ((Onward.refl u).setHold.inner .holdOff)⟩
  | closeLimitExpiry b => exact ⟨_, rfl, .expire fun u => .of_inner (Inner.refl u).closeFailed⟩
  | openLimitExpiry b => exact ⟨_, rfl, .expire fun u => .of_inner (Inner.refl u).openFailed⟩
  | supplyTimeout b => exact ⟨_, rfl, .expire fun u => .of_inner (Inner.refl u).supplyTimedOut⟩
  | holdTimerExpiry b => exact ⟨_, rfl, .expire fun u => .of_inner (Inner.refl u).holdExpired⟩
  | heatTimeReached b => exact ⟨_, rfl, .expire fun u => .of_inner (Inner.refl u).completeSession⟩
  | preparationTimerExpiry b => exact ⟨_, rfl, .expire fun u => .of_inner (Inner.refl u).preparationOver⟩
  | lapseTimerExpiry b => exact ⟨_, rfl, .expire fun u => .of_inner (Inner.refl u).endClearance⟩
  | reverseTimerExpiry b => exact ⟨_, rfl, .expire fun u => .of_inner (Inner.refl u).endClearance⟩
  | accumulatedWholeMinuteChange b => exact ⟨_, rfl, .expire fun u => .of_inner (Inner.refl u).setSession⟩
  | channelWaitLimitExpiry b act => exact ⟨_, rfl, .expire fun u => .of_inner (Inner.refl u).endWaiting.askPool⟩
  | busyWaitExpiry ch => exact ⟨_, rfl, .expire fun u => .of_inner (Inner.refl u).nextAttempt⟩
  | wakePauseEnd ch => exact ⟨_, rfl, .expire fun u => .of_inner (Inner.refl u).pauseOver⟩
  | wakeTimerExpiry ch => exact ⟨_, rfl, .expire fun u => .of_inner (Inner.refl u).wakeOver⟩
  | baselineExpiry b => exact ⟨_, rfl, .expire fun u => .of_inner (Inner.refl u).baselineOver⟩
  | onWindowExpiry b => exact ⟨_, rfl, .expire fun u => .of_inner (Inner.refl u).onWindowOver⟩
  | offWindowExpiry b => exact ⟨_, rfl, .expire fun u => .of_inner (Inner.refl u).offWindowOver⟩
  | requestSent ch => exact ⟨_, rfl, .of_inner (Inner.refl s).frameSent⟩
  | malformedFrame ch bytes => exact ⟨_, rfl, .of_inner (Inner.refl s).receive⟩
  | wakeReply ch f | identReply ch f | faultPageReply ch f | eraseStoredReply ch f | lampReply ch f | sleepReply ch f =>
    exact ⟨_, rfl, .of_inner (Inner.refl s).receiveFrame⟩
  | _ => exact absurd rfl hw

/-- Settles O11: what a command itself does is within its frame, and the examinations and vettings of `settle` are acts of the blocks. -/
theorem frameTimeAndLines : Obligations.FrameTimeAndLines := by
  intro c s t h
  obtain ⟨d, hd, hf⟩ := exec_timeFrame c s
  obtain rfl : d.settle = t := by rw [hd] at h; injection h
  have k : TimeFrame c s d.settle := hf.inner (Inner.refl d).settle
  exact ⟨k.lines, k.heads, fun hr hw => ⟨k.consumer hr hw, k.hb hr hw, k.clock hr hw⟩, k.time⟩

end Sys2Proof.Machine
end
